-- ==== Sys2Proof/Word.lean ====
section
/-! DEFINITION. The words of GAI2C-M (00_scope.md R5, R7): bytes and 7-bit device addresses. Every value is
unsigned; bit 0 is the least significant. -/

namespace Sys2Proof

/-- A data byte, and the contents of every register of the block (`BYTE_BITS = 8`, R5). -/
abbrev Byte := BitVec 8

/-- A device address of the bus (`ADDR_BITS = 7`, R5); all 128 values are ordinary targets (R60, R70). -/
abbrev Addr7 := BitVec 7

end Sys2Proof
end

