-- ==== Sys2Proof/Config.lean ====
section
/-! DEFINITION. The parameters of GAI2C-M (00_scope.md R5): the ones the spec fixes, as numbers, and the one it
leaves open, `REG_BASE`, as a constant without a body. -/

namespace Sys2Proof.Config

/-- Bits of a register; the divisor is legal below `2 ^ brrBits` (`BRR_BITS`, R5, R131). -/
abbrev brrBits : Nat := 8

/-- Bits of the `coreClockHz` operand (`CLK_BITS`, R5, R95). -/
abbrev clkBits : Nat := 32

/-- Bits of the `busFrequencyKHz` operand (`FREQ_BITS`, R5, R95). -/
abbrev freqBits : Nat := 16

/-- Bits of a buffer length operand (`LEN_BITS`, R5, R95). -/
abbrev lenBits : Nat := 8

/-- The prescaler: fixed at 1 and not programmable (R5). It is a factor of the bus frequency relation (R254) only. -/
abbrev prescaler : Nat := 1

/-- `REG_BASE`, the base address of the register block: OPEN in the spec (R5, 20_memory.md R61), so nothing in the
model can know its value (log 10). No rule depends on it. -/
opaque regBase : Nat

end Sys2Proof.Config
end

