-- ==== Sys2Proof/Syntax.lean ====
section
/-! DEFINITION. The instructions of GAI2C-M: one constructor per row of spec/opcode_table.json, that is the eleven
commands of 30_encoding.md R91 and the eight control-register actions of R99; the two levels an instruction is
encoded at (R90); and the framing state and direction the conditions of R99 speak of. -/

namespace Sys2Proof

/-- `FS`, the framing state (10_state.md R27). `dataPhase k`: the address transfer and `k` data transfers have
completed; `k` is a count without bound. -/
inductive Framing
  | idle
  | started
  | addressPhase
  | dataPhase (k : Nat)
  | stopped
deriving DecidableEq, Repr

/-- `FS = Idle`. -/
def Framing.isIdle : Framing → Bool
  | .idle => true
  | .started => false
  | .addressPhase => false
  | .dataPhase _ => false
  | .stopped => false

/-- `FS = Started`. -/
def Framing.isStarted : Framing → Bool
  | .idle => false
  | .started => true
  | .addressPhase => false
  | .dataPhase _ => false
  | .stopped => false

/-- `FS = DataPhase(k)` for some `k`. -/
def Framing.isData : Framing → Bool
  | .idle => false
  | .started => false
  | .addressPhase => false
  | .dataPhase _ => true
  | .stopped => false

/-- `FS = Stopped`. -/
def Framing.isStopped : Framing → Bool
  | .idle => false
  | .started => false
  | .addressPhase => false
  | .dataPhase _ => false
  | .stopped => true

/-- `DIR`, the direction of the open transaction (10_state.md R28): `w` the controller transmits the data bytes, `r` it
receives them. -/
inductive Dir
  | w
  | r
deriving DecidableEq, Repr

/-- An instruction. The first eleven are the commands of R91, in the source's order, their operands as R91 types them
(natural numbers for clock, frequency and length: the widths of R95 are WellFormed's). The last eight are the engine
actions of R99. -/
inductive Instr
  /-- Command 1, mnemonic `initialize` (the plain word is reserved in the model's files). -/
  | initializeBus (coreClockHz busFrequencyKHz : Nat)
  | sendStart
  | sendStop
  | writeByte (byte : Byte)
  | readByteAck
  | readByteNoAck
  | registerOwnAddress (address : Addr7)
  | writeByteTo (address : Addr7) (data : Byte)
  | readByteFrom (address : Addr7)
  | writeBuffer (address : Addr7) (bytes : List Byte)
  | readBuffer (address : Addr7) (length : Nat)
  /-- `ENABLE`, `x[CR] <- 0x04`. -/
  | enable
  /-- `ENABLE_ACK`, `x[CR] <- 0x44`. -/
  | enableAck
  /-- `START`, `x[CR] <- 0xA4` with `FS = Idle`. -/
  | start
  /-- `STOP`, `x[CR] <- 0x94` with `FS = Started` or `DataPhase(k)`. -/
  | stop
  /-- `TXA`, `x[CR] <- 0x84` with `FS = Started`. -/
  | txa
  /-- `TXD`, `x[CR] <- 0x84` with `FS = DataPhase(k)`, `DIR = W`. -/
  | txd
  /-- `RXN`, `x[CR] <- 0x84` with `FS = DataPhase(k)`, `DIR = R`. -/
  | rxn
  /-- `RXA`, `x[CR] <- 0xC4` with `FS = DataPhase(k)`, `DIR = R`. -/
  | rxa
deriving DecidableEq, Repr

/-- What an instruction is written as, at its level (30_encoding.md R90): a command byte string presented whole to the
sequencer (R92), or a value written to the control register (R99). -/
inductive InstrWord
  | command (bytes : List Byte)
  | control (value : Byte)
deriving DecidableEq, Repr

/-- The eleven commands, as against the eight control-register actions. -/
def Instr.isCommand : Instr → Bool
  | .initializeBus _ _ => true
  | .sendStart => true
  | .sendStop => true
  | .writeByte _ => true
  | .readByteAck => true
  | .readByteNoAck => true
  | .registerOwnAddress _ => true
  | .writeByteTo _ _ => true
  | .readByteFrom _ => true
  | .writeBuffer _ _ => true
  | .readBuffer _ _ => true
  | .enable => false
  | .enableAck => false
  | .start => false
  | .stop => false
  | .txa => false
  | .txd => false
  | .rxn => false
  | .rxa => false

end Sys2Proof
end

