-- ==== Sys2Proof/WellFormed.lean ====
section
/-! DEFINITION. Which instructions have an encoding: the operand ranges of 30_encoding.md R95. Addresses and bytes are
in range by their types. -/

namespace Sys2Proof

/-- The operands lie in the ranges of R95. -/
def Instr.wellFormed : Instr → Bool
  | .initializeBus c f => decide (c < 2 ^ Config.clkBits) && decide (f < 2 ^ Config.freqBits)
  | .sendStart => true
  | .sendStop => true
  | .writeByte _ => true
  | .readByteAck => true
  | .readByteNoAck => true
  | .registerOwnAddress _ => true
  | .writeByteTo _ _ => true
  | .readByteFrom _ => true
  | .writeBuffer _ bytes => decide (bytes.length < 2 ^ Config.lenBits)
  | .readBuffer _ n => decide (n < 2 ^ Config.lenBits)
  | .enable => true
  | .enableAck => true
  | .start => true
  | .stop => true
  | .txa => true
  | .txd => true
  | .rxn => true
  | .rxa => true

end Sys2Proof
end

