-- ==== Sys2Proof/Decode.lean ====
section
/-! DEFINITION. The decoder and the encoder of 30_encoding.md. Command level: R92 to R97 (an opcode byte, then the
operands, little-endian). Control level: R99, R100 (a value written to `CR`, told apart by `FS` and `DIR` where three
actions share one value). Both are total and reject by name. -/

namespace Sys2Proof

/-- Why a word is no instruction. The first four are the illegal commands of R97, the last the reserved control
values of R100. -/
inductive DecodeError
  /-- The empty string. -/
  | emptyString
  /-- Opcode number 0 or 12 to 15, or a non-zero reserved nibble. -/
  | reservedOpcode (opcode : Byte)
  /-- The length differs from the one R96 gives. -/
  | wrongLength (got : Nat)
  /-- Bit 7 of the address byte is 1. -/
  | addressBitSet (address : Byte)
  /-- Not one of the six values of R99. -/
  | reservedControl (value : Byte)
deriving DecidableEq, Repr

/-! ### Operands (R95) -/

/-- The number whose bytes, least significant first, are the list. -/
def natOfBytes : List Byte → Nat
  | [] => 0
  | b :: bs => b.toNat + 256 * natOfBytes bs

/-- The `n` low bytes of a number, least significant first. -/
def bytesOfNat : Nat → Nat → List Byte
  | 0, _ => []
  | n + 1, v => BitVec.ofNat 8 v :: bytesOfNat n (v / 256)

/-- The address operand of formats A, AB, AL, AV: bits 6:0, with bit 7 required to be 0 (R93). -/
def decodeAddress (b : Byte) (k : Addr7 → Instr) : Except DecodeError Instr :=
  if b.getLsbD 7 then .error (.addressBitSet b) else .ok (k (b.setWidth 7))

/-- The address byte of formats A, AB, AL, AV: unshifted, bit 7 clear. -/
def encodeAddress (a : Addr7) : Byte := a.setWidth 8

/-! ### Command level (R92 to R97) -/

/-- The operand bytes that follow opcode number `op`. -/
def decodeOperands (op : Byte) (rest : List Byte) : Except DecodeError Instr :=
  let short := DecodeError.wrongLength (rest.length + 1)
  match op.toNat with
  | 0x01 =>
    match rest with
    | [c0, c1, c2, c3, f0, f1] => .ok (.initializeBus (natOfBytes [c0, c1, c2, c3]) (natOfBytes [f0, f1]))
    | _ => .error short
  | 0x02 => if rest = [] then .ok .sendStart else .error short
  | 0x03 => if rest = [] then .ok .sendStop else .error short
  | 0x04 =>
    match rest with
    | [d] => .ok (.writeByte d)
    | _ => .error short
  | 0x05 => if rest = [] then .ok .readByteAck else .error short
  | 0x06 => if rest = [] then .ok .readByteNoAck else .error short
  | 0x07 =>
    match rest with
    | [a] => decodeAddress a .registerOwnAddress
    | _ => .error short
  | 0x08 =>
    match rest with
    | [a, d] => decodeAddress a (.writeByteTo · d)
    | _ => .error short
  | 0x09 =>
    match rest with
    | [a] => decodeAddress a .readByteFrom
    | _ => .error short
  | 0x0A =>
    match rest with
    | a :: n :: data => if data.length = n.toNat then decodeAddress a (.writeBuffer · data) else .error short
    | _ => .error short
  | 0x0B =>
    match rest with
    | [a, n] => decodeAddress a (.readBuffer · n.toNat)
    | _ => .error short
  | _ => .error (.reservedOpcode op)

/-- The command a byte string is, or why it is none (R92, R94, R96, R97). -/
def decodeCommand : List Byte → Except DecodeError Instr
  | [] => .error .emptyString
  | op :: rest => decodeOperands op rest

/-- The length of a command, which its opcode byte and, for `writeBuffer` only, its third byte give (R96); none for a
byte that is no opcode. -/
def commandLength (op third : Byte) : Option Nat :=
  match op.toNat with
  | 0x01 => some 7
  | 0x02 => some 1
  | 0x03 => some 1
  | 0x04 => some 2
  | 0x05 => some 1
  | 0x06 => some 1
  | 0x07 => some 2
  | 0x08 => some 3
  | 0x09 => some 2
  | 0x0A => some (3 + third.toNat)
  | 0x0B => some 3
  | _ => none

/-! ### Control level (R99, R100) -/

/-- The action a control value stands for in a framing state and direction. `0x84` is `TXD` or `RXN` in the data
phase, by the direction, and `TXA` otherwise: where the framing state does not admit the action, the action itself is
reserved (R180), not its decoding. -/
def decodeControl (v : Byte) (fs : Framing) (dir : Dir) : Except DecodeError Instr :=
  match v.toNat with
  | 0x04 => .ok .enable
  | 0x44 => .ok .enableAck
  | 0xA4 => .ok .start
  | 0x94 => .ok .stop
  | 0xC4 => .ok .rxa
  | 0x84 =>
    match fs, dir with
    | .dataPhase _, .w => .ok .txd
    | .dataPhase _, .r => .ok .rxn
    | _, _ => .ok .txa
  | _ => .error (.reservedControl v)

/-- The decoder, at either level. -/
def decode (w : InstrWord) (fs : Framing) (dir : Dir) : Except DecodeError Instr :=
  match w with
  | .command bytes => decodeCommand bytes
  | .control v => decodeControl v fs dir

/-! ### The encoder -/

/-- The word of an instruction: R93, R94 for a command, R99 for a control-register action. An operand outside the
range of R95 (an ill-formed instruction) loses its high bits. -/
def encode : Instr → InstrWord
  | .initializeBus c f => .command (0x01 :: (bytesOfNat 4 c ++ bytesOfNat 2 f))
  | .sendStart => .command [0x02]
  | .sendStop => .command [0x03]
  | .writeByte d => .command [0x04, d]
  | .readByteAck => .command [0x05]
  | .readByteNoAck => .command [0x06]
  | .registerOwnAddress a => .command [0x07, encodeAddress a]
  | .writeByteTo a d => .command [0x08, encodeAddress a, d]
  | .readByteFrom a => .command [0x09, encodeAddress a]
  | .writeBuffer a bytes => .command (0x0A :: encodeAddress a :: BitVec.ofNat 8 bytes.length :: bytes)
  | .readBuffer a n => .command [0x0B, encodeAddress a, BitVec.ofNat 8 n]
  | .enable => .control 0x04
  | .enableAck => .control 0x44
  | .start => .control 0xA4
  | .stop => .control 0x94
  | .txa => .control 0x84
  | .txd => .control 0x84
  | .rxn => .control 0x84
  | .rxa => .control 0xC4

/-- The condition of R99 under which a control-register action is the one its value selects; a command has none. -/
def controlCondition (i : Instr) (fs : Framing) (dir : Dir) : Bool :=
  match i with
  | .initializeBus _ _ => true
  | .sendStart => true
  | .sendStop => true
  | .writeByte _ => true
  | .readByteAck => true
  | .readByteNoAck => true
  | .registerOwnAddress _ => true
  | .writeByteTo _ _ => true
  | .readByteFrom _ => true
  | .writeBuffer _ _ => true
  | .readBuffer _ _ => true
  | .enable => true
  | .enableAck => true
  | .start => fs.isIdle
  | .stop => fs.isStarted || fs.isData
  | .txa => fs.isStarted
  | .txd => fs.isData && decide (dir = .w)
  | .rxn => fs.isData && decide (dir = .r)
  | .rxa => fs.isData && decide (dir = .r)

/-! ### Words as spec/opcode_table.json numbers them -/

/-- The low `n` bytes of `w`, the first byte lowest, padded with zero bytes to the length R96 gives the opcode byte. -/
def tableBytes (n w : Nat) : List Byte :=
  let v := w % 2 ^ (8 * n)
  let len := (commandLength (BitVec.ofNat 8 v) (BitVec.ofNat 8 (v / 65536))).getD n
  bytesOfNat (max n len) v

/-- The six values of R99. -/
def isControlValue (w : Nat) : Bool :=
  w == 0x04 || w == 0x44 || w == 0xA4 || w == 0x94 || w == 0x84 || w == 0xC4

/-- A table word of at most one byte that is one of the six values of R99 is a control-register value; every other word
is a command string. `0x04` in one byte is therefore `ENABLE`; `writeByte` takes two bytes (R96; log 7). -/
def tableWord (nbits w : Nat) : InstrWord :=
  if nbits ≤ 8 && isControlValue w then .control (BitVec.ofNat 8 w)
  else .command (tableBytes ((nbits + 7) / 8) w)

/-- The instruction of a table word. No state is given here, so `0x84` is read as in `Idle`: `TXA` (log 7). -/
def decodeTableWord (nbits w : Nat) : Option Instr :=
  match decode (tableWord nbits w) .idle .w with
  | .ok i => some i
  | .error _ => none

end Sys2Proof
end

