-- ==== Sys2Proof/Machine/State.lean ====
section
/-! DEFINITION. The state of GAI2C-M (10_state.md R20): the register block, the engine, the sequencer, the model
bookkeeping and the histories, and one field of the model's own, the schedule of turns. All of it is plain data. -/

namespace Sys2Proof.Machine

open Sys2Proof

/-! ### Answers of the bus environment (43_engine.md R191) -/

/-- The answer to a START. -/
inductive StartAnswer
  | done
  | busErr
deriving DecidableEq, Repr

/-- The answer to a transmitted byte. -/
inductive TxAnswer
  | ack
  | nack
  | arbLost
  | busErr
deriving DecidableEq, Repr

/-- How a receive ended. -/
inductive RxOutcome
  | normal
  | arbLost
  | busErr
deriving DecidableEq, Repr

/-- One response of the environment, from the response set of one kind of pending operation. The byte of a receive is
any byte (U3). -/
inductive Answer
  | start (r : StartAnswer)
  | tx (r : TxAnswer)
  | rx (o : RxOutcome) (b : Byte)
deriving DecidableEq, Repr

/-! ### Histories (10_state.md R37, 30_encoding.md R98) -/

/-- Whether a transmitted byte was the address byte or a data byte. -/
inductive TxKind
  | addr
  | data
deriving DecidableEq, Repr

/-- A bus event of `TRACE`. In `rx b acked o`, `acked` is the acknowledgment the controller returned. -/
inductive BusEvent
  | start
  | tx (kind : TxKind) (b : Byte) (r : TxAnswer)
  | rx (b : Byte) (acked : Bool) (o : RxOutcome)
  | stop
deriving DecidableEq, Repr

/-- A response delivered to the host: the pair (`ok`, payload). -/
structure Response where
  ok : Bool
  payload : List Byte
deriving DecidableEq, Repr

/-! ### Reasons a run stops -/

/-- The closed list of fault reasons (60_exceptions.md R211), each with what it records. Raising one sets `FLT` (R212);
the step after that answers `.fault` with the reason `FLT` holds. All are safe: they give no meaning to a use the
source does not describe. -/
inductive Fault
  /-- F1. Raised by `takeIssue` (a command presented while `SEQ.busy = 1`, R141 check (1)) and by every command's meaning
  when another command is executing. Safe. -/
  | reentrancy (offending : InstrWord)
  /-- F2. Raised by `takeIssue` on a byte string that is no command. Safe. -/
  | illegalCommand (bytes : List Byte)
  /-- F3. Raised by the issue of `initialize` whose divisor is undefined. Safe. -/
  | configError (coreClockHz busFrequencyKHz : Nat)
  /-- F4. Raised by the issue of a bus command while `CR.EN = 0`. Safe. -/
  | notEnabled (command : Instr)
  /-- F5. Raised by the issue of a bus command in a framing state that does not admit it. Safe. -/
  | protocolFault (command : Instr) (fs : Framing) (dir : Dir)
  /-- F6. Raised by a `CR` write whose value or condition is reserved. Safe. -/
  | illegalControl (value : Byte) (fs : Framing) (dir : Dir)
deriving DecidableEq, Repr

/-- Uses the model does not offer. -/
inductive Refusal
  /-- An instruction without a meaning; raised by `exec` alone. Safe. -/
  | notModelled (mnemonic : String)
  /-- A register offset above 4 (20_memory.md R61, V6); raised by `memRead` and `memWrite`. Safe. -/
  | noSuchRegister (offset : Nat)
  /-- An access of other than one byte (20_memory.md R62, V6); raised by `memRead` and `memWrite`. Safe. -/
  | accessWidth (n : Nat)
deriving DecidableEq, Repr

/-! ### The state -/

/-- The stored bits of `CR` (10_state.md R22). `STO` is a view of `FS` and the reserved bits read 0: neither is stored. -/
structure Control where
  rdy : Bool
  acken : Bool
  sta : Bool
  en : Bool
deriving DecidableEq, Repr

/-- `PEND`, the operation the engine has been asked for and has not completed (10_state.md R29). -/
inductive Pending
  | none
  | start
  | txAddr
  | txData
  | rx
deriving DecidableEq, Repr

/-- `SEQ`, the sequencer's record (10_state.md R30). -/
structure Seq where
  busy : Bool
  cmd : Instr
  mpc : Nat
  idx : Nat
  ok : Bool
  rx : List Byte
  s : Byte
deriving DecidableEq, Repr

/-- A turn: which agent moves next and with which input. Inputs are arguments of steps in the spec (10_state.md R20);
here they stand in the schedule. -/
inductive Turn
  /-- The host presents a command byte string (30_encoding.md R92). -/
  | issue (bytes : List Byte)
  /-- A raw write of the control register (95_test_vectors.md section 2.5; log 6). -/
  | control (value : Byte)
  /-- The sequencer runs its next micro-step, if its guard is open. -/
  | sequencer
  /-- The engine completes a STOP, if one is in progress (43_engine.md R189). -/
  | stopCompletion
  /-- The bus environment offers a response (43_engine.md R191). -/
  | answer (a : Answer)
  /-- The host resets the block (70_reset_and_hazards.md R240). -/
  | reset
deriving DecidableEq, Repr

/-- The whole state (10_state.md R20), and the model's `schedule` (log 1). -/
structure State where
  /-- Bit-rate register (R21). -/
  brr : Byte
  /-- Control register (R22, R23). -/
  cr : Control
  /-- `SR.CODE`, the upper five bits of the status register (R24). -/
  srCode : BitVec 5
  /-- Data register (R25). -/
  dr : Byte
  /-- Own-address register (R26). -/
  oar : Byte
  /-- Framing state (R27). -/
  fs : Framing
  /-- Direction (R28). -/
  dir : Dir
  /-- Pending operation (R29). -/
  pend : Pending
  /-- Sequencer (R30). -/
  seq : Seq
  /-- `FLT` (R36). -/
  flt : Option Fault
  /-- `ABN` (R36). -/
  abn : Bool
  /-- `TRACE` (R37), oldest event first. -/
  trace : List BusEvent
  /-- `OUT` (R37), oldest response first. -/
  out : List Response
  /-- The turns to come, the next one first. Empty: the block runs on its own (43_engine.md R199). -/
  schedule : List Turn
deriving DecidableEq, Repr

/-- The state after power-on reset (10_state.md R40). `CR`, `SR`, `FS`, `PEND`, `busy`, `FLT`, `ABN` and the histories
are the spec's; DESIGN CHOICE (log 5): `BRR`, `DR`, `OAR`, `DIR` and the rest of `SEQ`, which the spec leaves
unspecified, are zero, `W` and `initialize(0, 0)`; the schedule is empty (log 8). -/
def State.reset : State where
  brr := 0
  cr := ⟨false, false, false, false⟩
  srCode := 31
  dr := 0
  oar := 0
  fs := .idle
  dir := .w
  pend := .none
  seq := ⟨false, .initializeBus 0 0, 0, 0, false, [], 0⟩
  flt := none
  abn := false
  trace := []
  out := []
  schedule := []

end Sys2Proof.Machine
end

