-- ==== Sys2Proof/Machine/Flags.lean ====
section
/-! DEFINITION. The flags of GAI2C-M: the status codes the engine records (30_encoding.md R103, 43_engine.md R190), the
success predicate (R104) and which answers are abnormal (R193). A code is the upper five bits of its status byte:
`CODE = s >> 3`. -/

namespace Sys2Proof.Machine

open Sys2Proof

/-- `NO_INFO`, status byte `0xF8`: reset and STOP completion (R103). -/
def noInfo : BitVec 5 := 31

/-- `BUS_ERROR`, status byte `0x00`. -/
def busError : BitVec 5 := 0

/-- `ARB_LOST`, status byte `0x38`. -/
def arbLostCode : BitVec 5 := 7

/-- START completion: `0x08`, or `0x00` on a bus error (R182). -/
def startCode : StartAnswer → BitVec 5
  | .done => 1
  | .busErr => busError

/-- `txaCode(b[0], r)`: the address byte, by its direction (R190). -/
def txaCode : Dir → TxAnswer → BitVec 5
  | .w, .ack => 3
  | .w, .nack => 4
  | .r, .ack => 8
  | .r, .nack => 9
  | _, .arbLost => arbLostCode
  | _, .busErr => busError

/-- `txdCode(r)`: a data byte (R190). -/
def txdCode : TxAnswer → BitVec 5
  | .ack => 5
  | .nack => 6
  | .arbLost => arbLostCode
  | .busErr => busError

/-- `rxCode(ACKEN, o)`: a received byte, by the acknowledgment returned (R190). -/
def rxCode : Bool → RxOutcome → BitVec 5
  | true, .normal => 10
  | false, .normal => 11
  | _, .arbLost => arbLostCode
  | _, .busErr => busError

/-- `ackOk(s)`: exactly the four acknowledged status bytes (30_encoding.md R104). -/
def ackOk (s : Byte) : Bool := s == 0x18 || s == 0x28 || s == 0x40 || s == 0x50

/-- The answer to a START that sets `ABN` (43_engine.md R182, R193). -/
def StartAnswer.abnormal : StartAnswer → Bool
  | .done => false
  | .busErr => true

/-- The answers to a transmit that set `ABN` (R193). -/
def TxAnswer.abnormal : TxAnswer → Bool
  | .ack => false
  | .nack => false
  | .arbLost => true
  | .busErr => true

/-- The outcomes of a receive that set `ABN` (R193). -/
def RxOutcome.abnormal : RxOutcome → Bool
  | .normal => false
  | .arbLost => true
  | .busErr => true

end Sys2Proof.Machine
end

