-- ==== Sys2Proof/Machine/Operands.lean ====
section
/-! DEFINITION. The operand forms and the whole arithmetic of GAI2C-M (40_configuration.md R132): the address byte, the
own-address byte, the divisor, the control values of a buffer read, and the byte list of a buffer write. -/

namespace Sys2Proof.Machine

open Sys2Proof

/-- The direction bit of an address byte: 0 write, 1 read (30_encoding.md R101). -/
def dirBit : Dir → Byte
  | .w => 0
  | .r => 1

/-- `sla(a, d) = (a << 1) | d`, the address byte (30_encoding.md R101). -/
def sla (a : Addr7) (d : Dir) : Byte := (a.setWidth 8 <<< 1) ||| dirBit d

/-- The own-address byte, `a << 1` in 8 bits (30_encoding.md R102). -/
def ownAddressByte (a : Addr7) : Byte := a.setWidth 8 <<< 1

/-- The direction an address byte opens: its bit 0 (43_engine.md R184). -/
def dirOf (b : Byte) : Dir := if b.getLsbD 0 then .r else .w

/-- `divisor(c, f)` over unbounded naturals, with its precondition (40_configuration.md R131); none where undefined. -/
def divisor (c f : Nat) : Option Nat :=
  if f = 0 then none
  else
    let q := c / (f * 1000)
    if q < 16 then none
    else
      let d := (q - 16) / 2
      if d < 2 ^ Config.brrBits then some d else none

/-- `rxctl(i)` of a read of `n` bytes: every byte but the last is answered with ACK, the last with NACK; it is used only
for `i < n` (42_transactions.md R164). -/
def rxControl (n i : Nat) : Option Byte :=
  if i + 1 < n then some 0xC4
  else if i + 1 = n then some 0x84
  else none

/-- `data` of `writeBuffer`: the address byte, write direction, then the payload (42_transactions.md R163). -/
def bufferBytes (a : Addr7) (bytes : List Byte) : List Byte := sla a .w :: bytes

end Sys2Proof.Machine
end

