-- ==== Sys2Proof/Machine/Ops.lean ====
section
/-! DEFINITION. The named operations over the state: register reads and writes (20_memory.md R64) with the decode of a
`CR` write (43_engine.md R180), raising a fault (60_exceptions.md R212), emitting a bus event, responding
(41_primitives.md R140), and the register space by offset (20_memory.md R61, R62). There is no trap to enter or to
return from (R215, R216): raising a fault is the one thing beside them. -/

namespace Sys2Proof.Machine

open Sys2Proof

/-! ### Faults and outcomes -/

/-- Raise a fault: `FLT <- reason` and nothing else changes (60_exceptions.md R212). -/
def State.raise (s : State) (r : Fault) : State := { s with flt := some r }

/-- The outcome of an atomic step that either yields a state or raises a fault. A fault undoes what the step had done
so far: it changes nothing but `FLT` (R212; log 19). -/
def settle (s : State) : Except Fault State → Host.Outcome State Fault Refusal
  | .ok t => .next t
  | .error r => .next (s.raise r)

/-- No agent of a faulted block has an enabled step (R212): the machine stops with the recorded reason. -/
def whileLive (s : State) (o : Host.Outcome State Fault Refusal) : Host.Outcome State Fault Refusal :=
  match s.flt with
  | some r => .fault r
  | none => o

/-! ### Register reads (R64): no read has a side effect -/

/-- `x[CR]`: `RDY ++ ACKEN ++ STA ++ (FS = Stopped) ++ 0 ++ EN ++ 0 ++ 0`. -/
def State.readCR (s : State) : Byte :=
  BitVec.ofBool s.cr.rdy ++ BitVec.ofBool s.cr.acken ++ BitVec.ofBool s.cr.sta ++ BitVec.ofBool s.fs.isStopped ++
    0#1 ++ BitVec.ofBool s.cr.en ++ 0#2

/-- `x[SR]`: `CODE << 3`, the low three bits 0. -/
def State.readSR (s : State) : Byte := s.srCode ++ 0#3

/-- The five registers of the block, at their offsets (R61). -/
inductive Reg
  | brr
  | sr
  | oar
  | dr
  | cr
deriving DecidableEq, Repr

/-- `x[r]`. -/
def State.readReg (s : State) : Reg → Byte
  | .brr => s.brr
  | .sr => s.readSR
  | .oar => s.oar
  | .dr => s.dr
  | .cr => s.readCR

/-! ### Register writes (R64) -/

/-- `x[BRR] <- v`. -/
def State.writeBRR (s : State) (v : Byte) : State := { s with brr := v }

/-- `x[OAR] <- v`: no bus activity. -/
def State.writeOAR (s : State) (v : Byte) : State := { s with oar := v }

/-- `x[DR] <- v`: starts no transfer. With an operation pending the spec gives no behaviour (R64, N14); the byte is stored
here too, and a pending transmit then sends and records it (DESIGN CHOICE, log 26). -/
def State.writeDR (s : State) (v : Byte) : State := { s with dr := v }

/-- The stored bits of a `CR` write: `ACKEN <- v[6]`, `STA <- v[5]`, `EN <- v[2]`, and `RDY <- 0` when `v[7] = 1`. -/
def State.storeControl (s : State) (v : Byte) : State :=
  { s with cr := ⟨s.cr.rdy && !v.getLsbD 7, v.getLsbD 6, v.getLsbD 5, v.getLsbD 2⟩ }

/-- The effect of issuing a START (43_engine.md R181): `PEND <- Start`, nothing in `TRACE` yet. -/
def State.issueStart (s : State) : State := { s with pend := .start }

/-- The effect of issuing a STOP (R189): `FS <- Stopped`; `PEND` is not written. -/
def State.issueStop (s : State) : State := { s with fs := .stopped }

/-- The effect of issuing an address-byte transmit (R183). -/
def State.issueTxa (s : State) : State := { s with pend := .txAddr, fs := .addressPhase }

/-- The effect of issuing a data-byte transmit (R185). -/
def State.issueTxd (s : State) : State := { s with pend := .txData }

/-- The effect of issuing a receive (R187); the acknowledgment to return is the `ACKEN` just stored. -/
def State.issueRx (s : State) : State := { s with pend := .rx }

/-- `x[CR] <- v`, decoded as 43_engine.md R180 lays it out: a reserved value or condition raises `IllegalControl` and
stores nothing (R100, R197); every other write stores its bits and, with `TRIG`, issues the operation that `ACKEN`,
`STA`, `STO`, `FS` and `DIR` select. A trigger with an operation pending is log 17. -/
def State.writeCR (s : State) (v : Byte) : Except Fault State :=
  let illegal := Except.error (Fault.illegalControl v s.fs s.dir)
  if !v.getLsbD 2 || v.getLsbD 3 || v.getLsbD 1 || v.getLsbD 0 then illegal
  else if !v.getLsbD 7 then
    if v.getLsbD 5 || v.getLsbD 4 then illegal else .ok (s.storeControl v)
  else
    match v.getLsbD 6, v.getLsbD 5, v.getLsbD 4, s.fs, s.dir with
    | false, true, false, .idle, _ => .ok (s.storeControl v).issueStart
    | false, false, true, .started, _ => .ok (s.storeControl v).issueStop
    | false, false, true, .dataPhase _, _ => .ok (s.storeControl v).issueStop
    | false, false, false, .started, _ => .ok (s.storeControl v).issueTxa
    | false, false, false, .dataPhase _, .w => .ok (s.storeControl v).issueTxd
    | false, false, false, .dataPhase _, .r => .ok (s.storeControl v).issueRx
    | true, false, false, .dataPhase _, .r => .ok (s.storeControl v).issueRx
    | _, _, _, _, _ => illegal

/-- `x[r] <- v`; a write of `SR` is ignored (R24, R64). -/
def State.writeReg (s : State) (r : Reg) (v : Byte) : Except Fault State :=
  match r with
  | .brr => .ok (s.writeBRR v)
  | .sr => .ok s
  | .oar => .ok (s.writeOAR v)
  | .dr => .ok (s.writeDR v)
  | .cr => s.writeCR v

/-! ### The register space (R61, R62) -/

/-- The offset of a register from `REG_BASE`. -/
def Reg.offset : Reg → Nat
  | .brr => 0
  | .sr => 1
  | .oar => 2
  | .dr => 3
  | .cr => 4

/-- The address of a register: `REG_BASE` is open (log 10). -/
def Reg.address (r : Reg) : Nat := Config.regBase + r.offset

/-- The register at an offset; offsets 5 and above do not exist (R61). -/
def regAt : Nat → Option Reg
  | 0 => some .brr
  | 1 => some .sr
  | 2 => some .oar
  | 3 => some .dr
  | 4 => some .cr
  | _ => none

/-- `MemRead(offset, n)` (00_scope.md R8): only one byte, only at an existing register (log 24). -/
def State.memRead (s : State) (offset n : Nat) : Except Refusal Byte :=
  if n = 1 then
    match regAt offset with
    | some r => .ok (s.readReg r)
    | none => .error (.noSuchRegister offset)
  else .error (.accessWidth n)

/-- `MemWrite(offset, n, v)` (R8), with the same restrictions; the write itself may raise `IllegalControl`. A write of
`DR` with an operation pending stores the byte: the model's choice (log 26). -/
def State.memWrite (s : State) (offset n : Nat) (v : Byte) : Host.Outcome State Fault Refusal :=
  if n = 1 then
    match regAt offset with
    | some r => settle s (s.writeReg r v)
    | none => .refused (.noSuchRegister offset)
  else .refused (.accessWidth n)

/-! ### Histories and responses -/

/-- `emit e`: append to `TRACE` (R37). -/
def State.emit (s : State) (e : BusEvent) : State := { s with trace := s.trace ++ [e] }

/-- `respond (ok, payload)`: append to `OUT`, `SEQ.busy <- 0` (41_primitives.md R140 step 3). -/
def State.respond (s : State) (ok : Bool) (payload : List Byte) : State :=
  { s with seq := { s.seq with busy := false }, out := s.out ++ [⟨ok, payload⟩] }

/-- The response as bytes: the header `0b0000000k`, `k = ok`, then the payload (30_encoding.md R98). -/
def Response.bytes (r : Response) : List Byte := (if r.ok then 1 else 0) :: r.payload

/-! ### The sequencer's record -/

/-- Fall through to the next micro-step (R140 step 2). -/
def State.advance (s : State) : State := { s with seq := { s.seq with mpc := s.seq.mpc + 1 } }

/-- `SEQ.idx <- n`. -/
def State.setIdx (s : State) (n : Nat) : State := { s with seq := { s.seq with idx := n } }

/-- `SEQ.rx <- l`. -/
def State.setRx (s : State) (l : List Byte) : State := { s with seq := { s.seq with rx := l } }

/-- `SEQ.s <- x[SR] & 0xF8`. -/
def State.latchStatus (s : State) : State := { s with seq := { s.seq with s := s.readSR &&& 0xF8 } }

/-- `SEQ.ok <- b`. -/
def State.setOk (s : State) (b : Bool) : State := { s with seq := { s.seq with ok := b } }

/-- The fold of a composed command: `SEQ.s <- x[SR] & 0xF8; SEQ.ok <- SEQ.ok and ackOk(SEQ.s)` (42_transactions.md
R160). -/
def State.foldStatus (s : State) : State :=
  let t := s.latchStatus
  t.setOk (t.seq.ok && ackOk t.seq.s)

end Sys2Proof.Machine
end

