-- ==== Sys2Proof/Machine/Engine.lean ====
section
/-! DEFINITION. The engine's completion steps (43_engine.md): each is one atomic step that updates `SR`, `DR` (on a
receive), `FS`, `DIR`, `PEND`, `RDY`, `ABN` and `TRACE` together (20_memory.md R65). -/

namespace Sys2Proof.Machine

open Sys2Proof

/-- What every completion but a STOP's does: the status code, `FS`, `PEND <- None`, `RDY <- 1`, `ABN` when the answer was
abnormal (R193), and the event. -/
def State.complete (s : State) (code : BitVec 5) (fs : Framing) (abnormal : Bool) (e : BusEvent) : State :=
  { s with
    srCode := code
    fs := fs
    pend := .none
    cr := { s.cr with rdy := true }
    abn := s.abn || abnormal
    trace := s.trace ++ [e] }

/-- START completion (R182). -/
def State.completeStart (s : State) (r : StartAnswer) : State :=
  s.complete (startCode r) .started r.abnormal .start

/-- Address-byte completion (R184): the direction is bit 0 of the byte sent. -/
def State.completeTxa (s : State) (r : TxAnswer) : State :=
  { s.complete (txaCode (dirOf s.dr) r) (.dataPhase 0) r.abnormal (.tx .addr s.dr r) with dir := dirOf s.dr }

/-- Data-byte completion in `DataPhase(k)` (R186); `DR` is unchanged. -/
def State.completeTxd (s : State) (k : Nat) (r : TxAnswer) : State :=
  s.complete (txdCode r) (.dataPhase (k + 1)) r.abnormal (.tx .data s.dr r)

/-- Receive completion in `DataPhase(k)` (R188): the byte is the environment's. -/
def State.completeRx (s : State) (k : Nat) (o : RxOutcome) (b : Byte) : State :=
  { s.complete (rxCode s.cr.acken o) (.dataPhase (k + 1)) o.abnormal (.rx b s.cr.acken o) with dr := b }

/-- STOP completion (R189): `RDY` is not set. -/
def State.completeStop (s : State) : State :=
  { s with fs := .idle, srCode := noInfo, trace := s.trace ++ [.stop] }

/-- The engine's step on an offered answer: the pending operation completes when the answer is in its response set
(R191), and nothing happens otherwise (log 2; a data operation pending outside `DataPhase`: log 17). -/
def State.takeAnswer (s : State) (a : Answer) : State :=
  match s.pend, a, s.fs with
  | .start, .start r, _ => s.completeStart r
  | .txAddr, .tx r, _ => s.completeTxa r
  | .txData, .tx r, .dataPhase k => s.completeTxd k r
  | .rx, .rx o b, .dataPhase k => s.completeRx k o b
  | _, _, _ => s

/-- The engine's own step: a STOP in progress completes (R189). -/
def State.takeStopCompletion (s : State) : State :=
  if s.fs.isStopped then s.completeStop else s

end Sys2Proof.Machine
end

