-- ==== Sys2Proof/Machine/Sequencer.lean ====
section
/-! DEFINITION. How the sequencer executes a command (41_primitives.md R140): the issue step with the admission matrix
(R141), and the micro-steps with their guards. -/

namespace Sys2Proof.Machine

open Sys2Proof

/-! ### Guards and micro-programs -/

/-- The guard of a micro-step (R140 step 2). -/
inductive Guard
  /-- Always enabled. -/
  | always
  /-- `await RDY`: enabled only when `x[CR][7] = 1`. -/
  | awaitRdy
  /-- `hold until FS = Idle`. -/
  | holdIdle
deriving DecidableEq, Repr

/-- The guard is open. -/
def Guard.isOpen (g : Guard) (s : State) : Bool :=
  match g with
  | .always => true
  | .awaitRdy => s.cr.rdy
  | .holdIdle => s.fs.isIdle

/-- One numbered step of a micro-program: its guard and what it does. -/
structure MicroStep where
  guard : Guard
  act : State → Except Fault State

/-- Micro-step number `n` of a program; numbering starts at 1 (R140). -/
def microAt (prog : List MicroStep) : Nat → Option MicroStep
  | 0 => none
  | n + 1 => prog[n]?

/-- `x[CR] <- v`, then fall through. -/
def State.trigger (s : State) (v : Byte) : Except Fault State := (s.writeCR v).map State.advance

/-- `x[CR] <- v`, then respond: the last step of a command. -/
def State.finish (s : State) (v : Byte) (ok : Bool) (payload : List Byte) : Except Fault State :=
  (s.writeCR v).map (·.respond ok payload)

/-- The opening step of `sendStart` and of every composed command (R142, R161 to R164): hold, then START. -/
def openStep : MicroStep := ⟨.holdIdle, fun s => s.trigger 0xA4⟩

/-- `x[DR] <- b; x[CR] <- 0x84`, then fall through: a transmit. -/
def State.transmit (s : State) (b : Byte) : Except Fault State := (s.writeDR b).trigger 0x84

/-- The enabled micro-step of a program, if its guard is open; else the sequencer holds and nothing changes (log 4). -/
def runMicro (prog : List MicroStep) (s : State) : Except Fault State :=
  match microAt prog s.seq.mpc with
  | some m => if m.guard.isOpen s then m.act s else .ok s
  | none => .ok s

/-! ### Admission (R141) -/

/-- The nine commands that touch the bus: they need `EN = 1`. -/
def touchesBus : Instr → Bool
  | .initializeBus _ _ => false
  | .sendStart => true
  | .sendStop => true
  | .writeByte _ => true
  | .readByteAck => true
  | .readByteNoAck => true
  | .registerOwnAddress _ => false
  | .writeByteTo _ _ => true
  | .readByteFrom _ => true
  | .writeBuffer _ _ => true
  | .readBuffer _ _ => true
  | .enable => false
  | .enableAck => false
  | .start => false
  | .stop => false
  | .txa => false
  | .txd => false
  | .rxn => false
  | .rxa => false

/-- The framing states a command that opens a transaction is admitted in: `Idle`, and `Stopped`, where it holds. -/
def opensIn (fs : Framing) : Bool := fs.isIdle || fs.isStopped

/-- The admission matrix: the framing states each command is admitted in. `AddressPhase` is in no bus command's set
(check (5) then faults; log 23). -/
def admittedIn (i : Instr) (fs : Framing) (dir : Dir) : Bool :=
  match i with
  | .initializeBus _ _ => true
  | .sendStart => opensIn fs
  | .sendStop => fs.isStarted || fs.isData
  | .writeByte _ => fs.isStarted || (fs.isData && decide (dir = .w))
  | .readByteAck => fs.isData && decide (dir = .r)
  | .readByteNoAck => fs.isData && decide (dir = .r)
  | .registerOwnAddress _ => true
  | .writeByteTo _ _ => opensIn fs
  | .readByteFrom _ => opensIn fs
  | .writeBuffer _ _ => opensIn fs
  | .readBuffer _ _ => opensIn fs
  | .enable => true
  | .enableAck => true
  | .start => true
  | .stop => true
  | .txa => true
  | .txd => true
  | .rxn => true
  | .rxa => true

/-- Check (3): the operands of `initialize` whose divisor is undefined. -/
def badConfiguration : Instr → Option Fault
  | .initializeBus c f => if (divisor c f).isNone then some (.configError c f) else none
  | .sendStart => none
  | .sendStop => none
  | .writeByte _ => none
  | .readByteAck => none
  | .readByteNoAck => none
  | .registerOwnAddress _ => none
  | .writeByteTo _ _ => none
  | .readByteFrom _ => none
  | .writeBuffer _ _ => none
  | .readBuffer _ _ => none
  | .enable => none
  | .enableAck => none
  | .start => none
  | .stop => none
  | .txa => none
  | .txd => none
  | .rxn => none
  | .rxa => none

/-- Checks (3), (4), (5) of R141, in that order; check (1) is `runCommand`'s and `takeIssue`'s, check (2) the
decoder's. -/
def admission (i : Instr) (s : State) : Option Fault :=
  match badConfiguration i with
  | some r => some r
  | none =>
    if touchesBus i && !s.cr.en then some (.notEnabled i)
    else if !admittedIn i s.fs s.dir then some (.protocolFault i s.fs s.dir)
    else none

/-! ### Issue and execution (R140) -/

/-- Issue: the command is captured whole (20_memory.md R69), and the sequencer's latches are set (R140 step 1). -/
def State.capture (s : State) (i : Instr) : State :=
  { s with seq := { s.seq with busy := true, cmd := i, mpc := 1, idx := 0, ok := true, rx := [] } }

/-- The next step of command `i`, whose micro-program is `prog`: its issue when the sequencer is free, its next
micro-step when it is the command executing, `Reentrancy` when another one is (log 11). -/
def runCommand (i : Instr) (prog : List MicroStep) (s : State) : Host.Outcome State Fault Refusal :=
  whileLive s <|
    if s.seq.busy then
      if s.seq.cmd = i then settle s (runMicro prog s) else .next (s.raise (.reentrancy (encode i)))
    else
      match admission i s with
      | some r => .next (s.raise r)
      | none => .next (s.capture i)

/-- A control-register action: the write of its value, which R180 decodes with the state's own `FS` and `DIR`. Under the
action's condition of R99 that is the action; where the condition fails the value is reserved there, and raises
`IllegalControl`, or is another row of R99 (log 25). With an operation pending: log 17. -/
def runControl (v : Byte) (s : State) : Host.Outcome State Fault Refusal := whileLive s (settle s (s.writeCR v))

end Sys2Proof.Machine
end

