-- ==== Sys2Proof/Machine/Configuration.lean ====
section
/-! DEFINITION. The configuration family (40_configuration.md): `initialize`. -/

namespace Sys2Proof.Machine

open Sys2Proof

/-- The micro-program of `initialize` (R130): the divisor into `BRR`, then `ENABLE`. At issue the divisor was checked to
be defined; where it is not (a state no issue reaches) the step is the `ConfigError` it would have raised. -/
def progInitialize (c f : Nat) : List MicroStep :=
  [⟨.always, fun s =>
    match divisor c f with
    | some d => (s.writeBRR (BitVec.ofNat 8 d)).finish 0x04 true []
    | none => .error (.configError c f)⟩]

/-- `initialize(coreClockHz, busFrequencyKHz)` (R130). -/
def execInitialize (c f : Nat) (s : State) : Host.Outcome State Fault Refusal :=
  runCommand (.initializeBus c f) (progInitialize c f) s

end Sys2Proof.Machine
end

