-- ==== Sys2Proof/Machine/ControlWrites.lean ====
section
/-! DEFINITION. The eight control-register actions (30_encoding.md R99, 43_engine.md): each is the `CR` write of its value
(`State.writeCR`, R180), whose decode holds the condition. What the action completes to is the engine's (Engine.lean). -/

namespace Sys2Proof.Machine

open Sys2Proof

/-- `ENABLE` (R194): `EN <- 1`, `ACKEN <- 0`, `STA <- 0`; nothing triggered. -/
def execEnable (s : State) : Host.Outcome State Fault Refusal := runControl 0x04 s

/-- `ENABLE_ACK` (R195): `EN <- 1`, `ACKEN <- 1`, `STA <- 0`; nothing triggered. -/
def execEnableAck (s : State) : Host.Outcome State Fault Refusal := runControl 0x44 s

/-- `START` (R181). -/
def execStart (s : State) : Host.Outcome State Fault Refusal := runControl 0xA4 s

/-- `STOP` (R189). -/
def execStop (s : State) : Host.Outcome State Fault Refusal := runControl 0x94 s

/-- `TXA` (R183). -/
def execTxa (s : State) : Host.Outcome State Fault Refusal := runControl 0x84 s

/-- `TXD` (R185). -/
def execTxd (s : State) : Host.Outcome State Fault Refusal := runControl 0x84 s

/-- `RXN` (R187). -/
def execRxn (s : State) : Host.Outcome State Fault Refusal := runControl 0x84 s

/-- `RXA` (R187). -/
def execRxa (s : State) : Host.Outcome State Fault Refusal := runControl 0xC4 s

end Sys2Proof.Machine
end

