-- ==== Sys2Proof/Machine/Primitives.lean ====
section
/-! DEFINITION. The primitive operations (41_primitives.md): `sendStart`, `sendStop`, `writeByte`, `readByteAck`,
`readByteNoAck`, `registerOwnAddress`. Each is its micro-program, run by `runCommand`. -/

namespace Sys2Proof.Machine

open Sys2Proof

/-- `sendStart` (R142): hold until `Idle`, START; await, respond; no status check. -/
def progSendStart : List MicroStep :=
  [openStep,
   ⟨.awaitRdy, fun s => .ok (s.respond true [])⟩]

/-- `sendStart()` (R142). -/
def execSendStart (s : State) : Host.Outcome State Fault Refusal :=
  runCommand .sendStart progSendStart s

/-- `sendStop` (R143): STOP and respond at once, no await. -/
def progSendStop : List MicroStep :=
  [⟨.always, fun s => s.finish 0x94 true []⟩]

/-- `sendStop()` (R143). -/
def execSendStop (s : State) : Host.Outcome State Fault Refusal :=
  runCommand .sendStop progSendStop s

/-- `writeByte` (R144): the byte is sent; the response is `ackOk` of its status. -/
def progWriteByte (b : Byte) : List MicroStep :=
  [⟨.always, fun s => s.transmit b⟩,
   ⟨.awaitRdy, fun s =>
     let t := s.latchStatus
     .ok ((t.setOk (ackOk t.seq.s)).respond (ackOk t.seq.s) [])⟩]

/-- `writeByte(byte)` (R144). -/
def execWriteByte (b : Byte) (s : State) : Host.Outcome State Fault Refusal :=
  runCommand (.writeByte b) (progWriteByte b) s

/-- `readByteAck` (R145): receive, answering ACK; no status validation. -/
def progReadByteAck : List MicroStep :=
  [⟨.always, fun s => s.trigger 0xC4⟩,
   ⟨.awaitRdy, fun s => .ok (s.respond true [s.dr])⟩]

/-- `readByteAck()` (R145). -/
def execReadByteAck (s : State) : Host.Outcome State Fault Refusal :=
  runCommand .readByteAck progReadByteAck s

/-- `readByteNoAck` (R146): receive, answering NACK. -/
def progReadByteNoAck : List MicroStep :=
  [⟨.always, fun s => s.trigger 0x84⟩,
   ⟨.awaitRdy, fun s => .ok (s.respond true [s.dr])⟩]

/-- `readByteNoAck()` (R146). -/
def execReadByteNoAck (s : State) : Host.Outcome State Fault Refusal :=
  runCommand .readByteNoAck progReadByteNoAck s

/-- `registerOwnAddress` (R147): the own address into `OAR`, then `ENABLE_ACK`. -/
def progRegisterOwnAddress (a : Addr7) : List MicroStep :=
  [⟨.always, fun s => (s.writeOAR (ownAddressByte a)).finish 0x44 true []⟩]

/-- `registerOwnAddress(address)` (R147). -/
def execRegisterOwnAddress (a : Addr7) (s : State) : Host.Outcome State Fault Refusal :=
  runCommand (.registerOwnAddress a) (progRegisterOwnAddress a) s

end Sys2Proof.Machine
end

