-- ==== Sys2Proof/Machine/Transactions.lean ====
section
/-! DEFINITION. The composed transactions (42_transactions.md): `writeByteTo`, `readByteFrom`, `writeBuffer`,
`readBuffer`. Each opens with a START, sends an address byte, moves data bytes and closes with a STOP on every exit. -/

namespace Sys2Proof.Machine

open Sys2Proof

/-- Step 2 of every composed command: await the START, send the address byte. -/
def addressStep (a : Addr7) (d : Dir) : MicroStep := ⟨.awaitRdy, fun s => s.transmit (sla a d)⟩

/-- `writeByteTo` (R161): the data byte is sent whatever the address result was. -/
def progWriteByteTo (a : Addr7) (d : Byte) : List MicroStep :=
  [openStep,
   addressStep a .w,
   ⟨.awaitRdy, fun s => s.foldStatus.transmit d⟩,
   ⟨.awaitRdy, fun s => s.foldStatus.finish 0x94 s.foldStatus.seq.ok []⟩]

/-- `writeByteTo(address, data)` (R161). -/
def execWriteByteTo (a : Addr7) (d : Byte) (s : State) : Host.Outcome State Fault Refusal :=
  runCommand (.writeByteTo a d) (progWriteByteTo a d) s

/-- `readByteFrom` (R162): one byte, answered with NACK, read whatever the address result was. -/
def progReadByteFrom (a : Addr7) : List MicroStep :=
  [openStep,
   addressStep a .r,
   ⟨.awaitRdy, fun s => s.foldStatus.trigger 0x84⟩,
   ⟨.awaitRdy, fun s => (s.setRx [s.dr]).finish 0x94 s.seq.ok [s.dr]⟩]

/-- `readByteFrom(address)` (R162). -/
def execReadByteFrom (a : Addr7) (s : State) : Host.Outcome State Fault Refusal :=
  runCommand (.readByteFrom a) (progReadByteFrom a) s

/-- Step 3 of `writeBuffer` (R163): STOP and report failure on the first byte not acknowledged, STOP and report success
after the last one, else send the next byte and come back to step 3. An index past the list (a state no command
reaches) leaves the sequencer stuck (log 15). -/
def writeBufferLoop (a : Addr7) (bytes : List Byte) (s : State) : Except Fault State :=
  let t := s.foldStatus
  if !t.seq.ok then t.finish 0x94 false []
  else if t.seq.idx = bytes.length + 1 then t.finish 0x94 true []
  else
    match (bufferBytes a bytes)[t.seq.idx]? with
    | some b => ((t.writeDR b).writeCR 0x84).map (·.setIdx (t.seq.idx + 1))
    | none => .ok s

/-- `writeBuffer` (R163). -/
def progWriteBuffer (a : Addr7) (bytes : List Byte) : List MicroStep :=
  [openStep,
   ⟨.awaitRdy, fun s => (s.transmit (sla a .w)).map (·.setIdx 1)⟩,
   ⟨.awaitRdy, writeBufferLoop a bytes⟩]

/-- `writeBuffer(address, bytes)` (R163). -/
def execWriteBuffer (a : Addr7) (bytes : List Byte) (s : State) : Host.Outcome State Fault Refusal :=
  runCommand (.writeBuffer a bytes) (progWriteBuffer a bytes) s

/-- Step 3 of `readBuffer` (R164): with nothing to read, STOP and respond; else trigger the first receive. -/
def readBufferFirst (n : Nat) (s : State) : Except Fault State :=
  let t := s.foldStatus
  if n = 0 then t.finish 0x94 t.seq.ok []
  else
    match rxControl n t.seq.idx with
    | some v => t.trigger v
    | none => .ok s

/-- Step 4 of `readBuffer` (R164): take the byte; STOP and respond after the last one, else trigger the next receive and
come back to step 4. An index past the length (a state no command reaches) leaves the sequencer stuck (log 15). -/
def readBufferLoop (n : Nat) (s : State) : Except Fault State :=
  let t := (s.setRx (s.seq.rx ++ [s.dr])).setIdx (s.seq.idx + 1)
  if t.seq.idx = n then t.finish 0x94 t.seq.ok t.seq.rx
  else
    match rxControl n t.seq.idx with
    | some v => t.writeCR v
    | none => .ok s

/-- `readBuffer` (R164). -/
def progReadBuffer (a : Addr7) (n : Nat) : List MicroStep :=
  [openStep,
   addressStep a .r,
   ⟨.awaitRdy, readBufferFirst n⟩,
   ⟨.awaitRdy, readBufferLoop n⟩]

/-- `readBuffer(address, length)` (R164). -/
def execReadBuffer (a : Addr7) (n : Nat) (s : State) : Host.Outcome State Fault Refusal :=
  runCommand (.readBuffer a n) (progReadBuffer a n) s

end Sys2Proof.Machine
end

