-- ==== Sys2Proof/Machine/Dispatch.lean ====
section
/-! DEFINITION. One arm per instruction: a direct call of its meaning. -/

namespace Sys2Proof.Machine

open Sys2Proof

def exec (i : Instr) (s : State) : Host.Outcome State Fault Refusal :=
  match i with
  | .initializeBus c f => Sys2Proof.Machine.execInitialize c f s
  | .sendStart => Sys2Proof.Machine.execSendStart s
  | .sendStop => Sys2Proof.Machine.execSendStop s
  | .writeByte b => Sys2Proof.Machine.execWriteByte b s
  | .readByteAck => Sys2Proof.Machine.execReadByteAck s
  | .readByteNoAck => Sys2Proof.Machine.execReadByteNoAck s
  | .registerOwnAddress a => Sys2Proof.Machine.execRegisterOwnAddress a s
  | .writeByteTo a d => Sys2Proof.Machine.execWriteByteTo a d s
  | .readByteFrom a => Sys2Proof.Machine.execReadByteFrom a s
  | .writeBuffer a bytes => Sys2Proof.Machine.execWriteBuffer a bytes s
  | .readBuffer a n => Sys2Proof.Machine.execReadBuffer a n s
  | .enable => Sys2Proof.Machine.execEnable s
  | .enableAck => Sys2Proof.Machine.execEnableAck s
  | .start => Sys2Proof.Machine.execStart s
  | .stop => Sys2Proof.Machine.execStop s
  | .txa => Sys2Proof.Machine.execTxa s
  | .txd => Sys2Proof.Machine.execTxd s
  | .rxn => Sys2Proof.Machine.execRxn s
  | .rxa => Sys2Proof.Machine.execRxa s

end Sys2Proof.Machine
end

