-- ==== Sys2Proof/Machine/Turns.lean ====
section
/-! DEFINITION. What each turn of the schedule does (43_engine.md R199): the host's, the sequencer's, the engine's, the
environment's; and which step the block takes on its own when the schedule is empty. Step.lean only calls these. -/

namespace Sys2Proof.Machine

open Sys2Proof

/-- The micro-program of a command; a control-register action has none. -/
def program : Instr → List MicroStep
  | .initializeBus c f => progInitialize c f
  | .sendStart => progSendStart
  | .sendStop => progSendStop
  | .writeByte b => progWriteByte b
  | .readByteAck => progReadByteAck
  | .readByteNoAck => progReadByteNoAck
  | .registerOwnAddress a => progRegisterOwnAddress a
  | .writeByteTo a d => progWriteByteTo a d
  | .readByteFrom a => progReadByteFrom a
  | .writeBuffer a bytes => progWriteBuffer a bytes
  | .readBuffer a n => progReadBuffer a n
  | .enable => []
  | .enableAck => []
  | .start => []
  | .stop => []
  | .txa => []
  | .txd => []
  | .rxn => []
  | .rxa => []

/-- The guard of the micro-step the executing command is at. -/
def State.currentGuard (s : State) : Option Guard :=
  (microAt (program s.seq.cmd) s.seq.mpc).map MicroStep.guard

/-- The sequencer has an enabled micro-step. -/
def State.sequencerEnabled (s : State) : Bool :=
  s.seq.busy &&
    match s.currentGuard with
    | some g => g.isOpen s
    | none => false

/-- The host presents a byte string: check (1) of R141, `SEQ.busy = 1` alone, comes before decoding (T-F17), then check
(2), then the instruction's own meaning. -/
def takeIssue (bytes : List Byte) (s : State) : Host.Outcome State Fault Refusal :=
  if s.seq.busy then .next (s.raise (.reentrancy (.command bytes)))
  else
    match decodeCommand bytes with
    | .ok i => exec i s
    | .error _ => .next (s.raise (.illegalCommand bytes))

/-- A raw control-register write (95_test_vectors.md section 2.5; log 6): in every state, executing or pending or not,
it is what R180 decodes it to, which looks at the value, `FS` and `DIR` alone. -/
def takeControl (v : Byte) (s : State) : Host.Outcome State Fault Refusal :=
  match decodeControl v s.fs s.dir with
  | .ok i => exec i s
  | .error _ => .next (s.raise (.illegalControl v s.fs s.dir))

/-- The sequencer's turn: the next step of the executing command; nothing when no command executes. -/
def takeSequencer (s : State) : Host.Outcome State Fault Refusal :=
  if s.seq.busy then exec s.seq.cmd s else .next s

/-- One turn. -/
def takeTurn (t : Turn) (s : State) : Host.Outcome State Fault Refusal :=
  match t with
  | .issue bytes => takeIssue bytes s
  | .control v => takeControl v s
  | .sequencer => takeSequencer s
  | .stopCompletion => .next s.takeStopCompletion
  | .answer a => .next (s.takeAnswer a)
  | .reset => .next { State.reset with schedule := s.schedule }

/-- The block's own progress when nothing is scheduled: the sequencer's enabled step, else a STOP completion, else none
(quiescent: nothing changes; log 1, log 4). -/
def takeOwnStep (s : State) : Host.Outcome State Fault Refusal :=
  if s.sequencerEnabled then exec s.seq.cmd s else .next s.takeStopCompletion

end Sys2Proof.Machine
end

