-- ==== Sys2Proof/Machine/Step.lean ====
section
/-! DEFINITION. One step of the machine: the next turn of the schedule, or the block's own progress when the schedule is
empty. A faulted block has no step but a reset (60_exceptions.md R212, 70_reset_and_hazards.md R240). -/

namespace Sys2Proof.Machine

open Sys2Proof

/-- One step. -/
def step (s : State) : Host.Outcome State Fault Refusal :=
  match s.schedule with
  | [] => whileLive s (takeOwnStep s)
  | .reset :: rest => takeTurn .reset { s with schedule := rest }
  | t :: rest => whileLive s (takeTurn t { s with schedule := rest })

/-- The turn that presents a word. -/
def presentTurn : InstrWord → Turn
  | .command bytes => .issue bytes
  | .control v => .control v

/-- `s` with a table word presented next: the turn that presents it is put in front of the schedule, and nothing else
changes (log 8). -/
def State.withFetchWord (s : State) (nbits w : Nat) : State :=
  { s with schedule := presentTurn (tableWord nbits w) :: s.schedule }

end Sys2Proof.Machine
end

