-- ==== Sys2Proof/Machine/Assembler.lean ====
section
/-! DEFINITION. The textual syntax of commands (30_encoding.md R105): the operation name, then its arguments in
parentheses, separated by commas; numbers decimal or `0x` hexadecimal; a byte list in brackets. Text is a list of
characters, one command a line. -/

namespace Sys2Proof.Machine

open Sys2Proof

/-- A token of a line. -/
inductive Token
  | name (cs : List Char)
  | num (n : Nat)
  | lpar
  | rpar
  | comma
  | lbrk
  | rbrk
deriving DecidableEq, Repr

/-- The value of a hexadecimal digit, of either case. -/
def hexDigit (c : Char) : Option Nat :=
  if '0' ≤ c ∧ c ≤ '9' then some (c.toNat - '0'.toNat)
  else if 'a' ≤ c ∧ c ≤ 'f' then some (c.toNat - 'a'.toNat + 10)
  else if 'A' ≤ c ∧ c ≤ 'F' then some (c.toNat - 'A'.toNat + 10)
  else none

/-- The number a non-empty digit string stands for in a base, most significant digit first; `acc` is the value so far. -/
def digits (base : Nat) : Nat → List Char → Option Nat
  | acc, [] => some acc
  | acc, c :: cs =>
    match hexDigit c with
    | some d => if d < base then digits base (acc * base + d) cs else none
    | none => none

/-- A run of letters and digits: a number when it begins with a digit, a name otherwise. -/
def classify : List Char → Option Token
  | '0' :: 'x' :: c :: cs => (digits 16 0 (c :: cs)).map .num
  | c :: cs => if c.isDigit then (digits 10 0 (c :: cs)).map .num else some (.name (c :: cs))
  | [] => none

/-- The tokens of a run that has just ended; it was collected backwards. -/
def flush : List Char → Option (List Token)
  | [] => some []
  | run => (classify run.reverse).map ([·])

/-- A character that is no letter and no digit: a space is no token (log 20). -/
def punctuation (c : Char) : Option (List Token) :=
  if c = ' ' then some []
  else if c = '(' then some [.lpar]
  else if c = ')' then some [.rpar]
  else if c = ',' then some [.comma]
  else if c = '[' then some [.lbrk]
  else if c = ']' then some [.rbrk]
  else none

/-- The tokens of a line; `run` is the run of letters and digits being read, backwards. -/
def lex : List Char → List Char → Option (List Token)
  | run, [] => flush run
  | run, c :: cs =>
    if c.isAlphanum then lex (c :: run) cs
    else
      match flush run, punctuation c, lex [] cs with
      | some ts, some p, some rest => some (ts ++ p ++ rest)
      | _, _, _ => none

/-- A byte operand, 0 to 255. -/
def byteOperand (n : Nat) : Option Byte := if n < 256 then some (BitVec.ofNat 8 n) else none

/-- An address operand, 0 to 127. -/
def addressOperand (n : Nat) : Option Addr7 := if n < 128 then some (BitVec.ofNat 7 n) else none

/-- The rest of a byte list after an element, up to the closing bracket and parenthesis. -/
def byteListTail : List Token → Option (List Byte)
  | [.rbrk, .rpar] => some []
  | .comma :: .num n :: rest =>
    match byteOperand n, byteListTail rest with
    | some b, some bs => some (b :: bs)
    | _, _ => none
  | _ => none

/-- A byte list after its opening bracket. -/
def byteList : List Token → Option (List Byte)
  | [.rbrk, .rpar] => some []
  | .num n :: rest =>
    match byteOperand n, byteListTail rest with
    | some b, some bs => some (b :: bs)
    | _, _ => none
  | _ => none

/-- An operation without arguments, by its name. -/
def plainCommand (name : List Char) : Option Instr :=
  if name = ['s', 'e', 'n', 'd', 'S', 't', 'a', 'r', 't'] then some .sendStart
  else if name = ['s', 'e', 'n', 'd', 'S', 't', 'o', 'p'] then some .sendStop
  else if name = ['r', 'e', 'a', 'd', 'B', 'y', 't', 'e', 'A', 'c', 'k'] then some .readByteAck
  else if name = ['r', 'e', 'a', 'd', 'B', 'y', 't', 'e', 'N', 'o', 'A', 'c', 'k'] then some .readByteNoAck
  else none

/-- An operation with one number. -/
def unaryCommand (name : List Char) (n : Nat) : Option Instr :=
  if name = ['w', 'r', 'i', 't', 'e', 'B', 'y', 't', 'e'] then (byteOperand n).map .writeByte
  else if name = ['r', 'e', 'g', 'i', 's', 't', 'e', 'r', 'O', 'w', 'n', 'A', 'd', 'd', 'r', 'e', 's', 's'] then
    (addressOperand n).map .registerOwnAddress
  else if name = ['r', 'e', 'a', 'd', 'B', 'y', 't', 'e', 'F', 'r', 'o', 'm'] then
    (addressOperand n).map .readByteFrom
  else none

/-- An operation with two numbers. -/
def binaryCommand (name : List Char) (m n : Nat) : Option Instr :=
  if name = ['i', 'n', 'i', 't', 'i', 'a', 'l', 'i', 'z', 'e'] then some (.initializeBus m n)
  else if name = ['w', 'r', 'i', 't', 'e', 'B', 'y', 't', 'e', 'T', 'o'] then
    match addressOperand m, byteOperand n with
    | some a, some d => some (.writeByteTo a d)
    | _, _ => none
  else if name = ['r', 'e', 'a', 'd', 'B', 'u', 'f', 'f', 'e', 'r'] then
    (addressOperand m).map (.readBuffer · n)
  else none

/-- The command a line's tokens are. -/
def parseCommand : List Token → Option Instr
  | [.name f, .lpar, .rpar] => plainCommand f
  | [.name f, .lpar, .num n, .rpar] => unaryCommand f n
  | [.name f, .lpar, .num m, .comma, .num n, .rpar] => binaryCommand f m n
  | .name f :: .lpar :: .num m :: .comma :: .lbrk :: rest =>
    if f = ['w', 'r', 'i', 't', 'e', 'B', 'u', 'f', 'f', 'e', 'r'] then
      match addressOperand m, byteList rest with
      | some a, some bs => some (.writeBuffer a bs)
      | _, _ => none
    else none
  | _ => none

/-- The instruction a line of text is; none for a line that is no command or whose operands are out of range. -/
def assemble (line : List Char) : Option Instr :=
  match lex [] line with
  | some ts => (parseCommand ts).filter Instr.wellFormed
  | none => none

/-- A text, one command a line. -/
def assembleText (lines : List (List Char)) : Option (List Instr) := lines.mapM assemble

end Sys2Proof.Machine
end

