-- ==== Sys2Proof/Safety.lean ====
section
/-! DEFINITION. What counts as a good run of GAI2C-M, in the terms claims use: final, hung and left-open states
(70_reset_and_hazards.md R252), the invariants of 10_state.md R41, the framing of `TRACE` (42_transactions.md R168), runs
of given turns, and the primitive sequences of 30_encoding.md R106. -/

namespace Sys2Proof.Machine

open Sys2Proof

/-! ### Kinds of state -/

/-- No fault is recorded. -/
def State.live (s : State) : Prop := s.flt = none

/-- No agent of the block has an enabled step and nothing further is scheduled (R252). -/
def State.quiescent (s : State) : Prop :=
  s.schedule = [] ∧ (s.flt ≠ none ∨ (s.sequencerEnabled = false ∧ s.fs ≠ .stopped))

/-- A good end (R252): a quiescent state with no fault, no command, nothing pending and no transaction. -/
def State.final (s : State) : Prop :=
  s.quiescent ∧ s.flt = none ∧ s.seq.busy = false ∧ s.pend = .none ∧ s.fs = .idle

/-- Waiting for the bus (43_engine.md R198): a command awaits `RDY`, an operation is pending, and no fault is recorded. It
lasts for ever, a hang, if no answer comes. -/
def State.awaitingBus (s : State) : Prop :=
  s.flt = none ∧ s.seq.busy = true ∧ s.pend ≠ .none ∧ s.cr.rdy = false ∧ s.currentGuard = some .awaitRdy

/-- A hung end (R252): a quiescent state with a command waiting on `RDY` or on `FS = Idle`. -/
def State.hung (s : State) : Prop :=
  s.quiescent ∧ s.flt = none ∧ s.seq.busy = true ∧
    ((s.currentGuard = some .awaitRdy ∧ s.cr.rdy = false) ∨ (s.currentGuard = some .holdIdle ∧ s.fs ≠ .idle))

/-- A transaction without its STOP, the host done (R243, R252): a quiescent state with no command executing. -/
def State.leftOpen (s : State) : Prop :=
  s.quiescent ∧ s.flt = none ∧ s.seq.busy = false ∧ (s.fs = .started ∨ ∃ k, s.fs = .dataPhase k)

/-! ### The invariants of R41 -/

/-- What every step keeps of an orderly host (`State.orderly`), raw control writes included: items 1, 2, 3, 5 of R41, and
item 4 less its claim that a command is busy. (Items 6, 7, 8 hold in every state: they are statements of their own.) -/
structure EngineInvariant (s : State) : Prop where
  /-- Item 1. -/
  txAddr_iff : s.pend = .txAddr ↔ s.fs = .addressPhase
  /-- Item 2. -/
  start_idle : s.pend = .start → s.fs = .idle
  /-- Item 3, transmit. -/
  txData_write : s.pend = .txData → s.dir = .w ∧ ∃ k, s.fs = .dataPhase k
  /-- Item 3, receive. -/
  rx_read : s.pend = .rx → s.dir = .r ∧ ∃ k, s.fs = .dataPhase k
  /-- Item 4, `RDY`. -/
  pending_notReady : s.pend ≠ .none → s.cr.rdy = false
  /-- Item 4, the await, where a command is busy. -/
  pending_await : s.pend ≠ .none → s.seq.busy = true → s.currentGuard = some .awaitRdy
  /-- Item 5. -/
  open_enabled : s.fs ≠ .idle → s.cr.en = true
  /-- An operation is pending only in an enabled block (what makes item 5 inductive). -/
  pending_enabled : s.pend ≠ .none → s.cr.en = true
  /-- What the sequencer executes is a command (R30). -/
  busy_command : s.seq.busy = true → s.seq.cmd.isCommand = true

/-- What the host presents next comes when the engine owes nothing: a raw write that triggers comes with `PEND = None` and
no command executing (R180: "A triggering write is possible only when `PEND = None`"), and a command that is not turned
away as `Reentrancy` with `PEND = None` (R66: at most one operation pending). R41's invariants suppose it; a block driven
through commands always meets it (`CommandInvariant`). The model goes on without it too (log 6, log 17). -/
def State.orderly (s : State) : Prop :=
  (∀ v rest t, s.schedule = .control v :: rest → v.getLsbD 7 = true → s.writeCR v = .ok t →
    s.pend = .none ∧ s.seq.busy = false) ∧
  (∀ bytes rest, s.schedule = .issue bytes :: rest → s.seq.busy = false → s.pend = .none)

/-- The schedule holds no raw control write: the block is driven through commands only, as R41 supposes. -/
def State.commandsOnly (s : State) : Prop := ∀ v, Turn.control v ∉ s.schedule

/-- The invariants of R41, items 1 to 5, whole. -/
structure CommandInvariant (s : State) : Prop where
  engine : EngineInvariant s
  /-- Item 4: a pending operation belongs to a busy command. -/
  pending_busy : s.pend ≠ .none → s.seq.busy = true
  commandsOnly : s.commandsOnly

/-! ### Where the executing command stands

Each inner step of a command leaves the framing state the next one requires (42_transactions.md R160, from the
transitions of 43_engine.md R192). -/

/-- Nothing pending, no transaction open, or a STOP in progress: the opening step holds or is enabled. -/
def State.beforeOpening (s : State) : Prop := s.pend = .none ∧ (s.fs = .idle ∨ s.fs = .stopped)

/-- The START is pending, or it has completed. -/
def State.opening (s : State) : Prop := s.pend = .start ∨ (s.pend = .none ∧ s.cr.rdy = true ∧ s.fs = .started)

/-- The address byte of direction `d` is pending, or it has completed. -/
def State.addressing (s : State) (d : Dir) : Prop :=
  (s.pend = .txAddr ∧ dirOf s.dr = d) ∨
    (s.pend = .none ∧ s.cr.rdy = true ∧ s.dir = d ∧ ∃ k, s.fs = .dataPhase k)

/-- A data byte is pending, or it has completed. -/
def State.sending (s : State) : Prop :=
  s.pend = .txData ∨ (s.pend = .none ∧ s.cr.rdy = true ∧ s.dir = .w ∧ ∃ k, s.fs = .dataPhase k)

/-- A receive is pending, or it has completed. -/
def State.receiving (s : State) : Prop :=
  s.pend = .rx ∨ (s.pend = .none ∧ s.cr.rdy = true ∧ s.dir = .r ∧ ∃ k, s.fs = .dataPhase k)

/-- Some operation is pending, or it has completed. -/
def State.awaited (s : State) : Prop := s.pend ≠ .none ∨ s.cr.rdy = true

/-- The executing command is at one of its micro-steps, and the block is where that step needs it. -/
def State.inPhase (s : State) : Prop :=
  match s.seq.cmd, s.seq.mpc with
  | .initializeBus c f, 1 => s.pend = .none ∧ divisor c f ≠ none
  | .registerOwnAddress _, 1 => s.pend = .none
  | .sendStart, 1 => s.beforeOpening
  | .sendStart, 2 => s.opening
  | .sendStop, 1 => s.pend = .none ∧ (s.fs = .started ∨ ∃ k, s.fs = .dataPhase k)
  | .writeByte _, 1 => s.pend = .none ∧ (s.fs = .started ∨ (s.dir = .w ∧ ∃ k, s.fs = .dataPhase k))
  | .writeByte _, 2 => s.awaited
  | .readByteAck, 1 => s.pend = .none ∧ s.dir = .r ∧ ∃ k, s.fs = .dataPhase k
  | .readByteAck, 2 => s.awaited
  | .readByteNoAck, 1 => s.pend = .none ∧ s.dir = .r ∧ ∃ k, s.fs = .dataPhase k
  | .readByteNoAck, 2 => s.awaited
  | .writeByteTo _ _, 1 => s.beforeOpening
  | .writeByteTo _ _, 2 => s.opening
  | .writeByteTo _ _, 3 => s.addressing .w
  | .writeByteTo _ _, 4 => s.sending
  | .readByteFrom _, 1 => s.beforeOpening
  | .readByteFrom _, 2 => s.opening
  | .readByteFrom _, 3 => s.addressing .r
  | .readByteFrom _, 4 => s.receiving
  | .writeBuffer _ _, 1 => s.beforeOpening
  | .writeBuffer _ _, 2 => s.opening
  | .writeBuffer _ bytes, 3 => (s.addressing .w ∨ s.sending) ∧ 1 ≤ s.seq.idx ∧ s.seq.idx ≤ bytes.length + 1
  | .readBuffer _ _, 1 => s.beforeOpening ∧ s.seq.idx = 0
  | .readBuffer _ _, 2 => s.opening ∧ s.seq.idx = 0
  | .readBuffer _ _, 3 => s.addressing .r ∧ s.seq.idx = 0
  | .readBuffer _ n, 4 => s.receiving ∧ s.seq.idx < n
  | _, _ => False

/-- The engine's invariant, and the executing command is in phase. -/
structure SequencerInvariant (s : State) : Prop where
  engine : EngineInvariant s
  phase : s.seq.busy = true → s.inPhase

/-! ### The framing of `TRACE` -/

/-- How far the transaction at the end of a trace has got: none open, START seen, address byte sent and `k` data bytes
moved. -/
inductive TraceFrame
  | closed
  | opened
  | addressed (dir : Dir) (k : Nat)
deriving DecidableEq, Repr

/-- One event read by the framing automaton; none for an event out of place. A START opens, the address byte follows it
and gives the direction, data bytes follow the address byte in that direction, a STOP closes an open transaction. -/
def frameEvent : Option TraceFrame → BusEvent → Option TraceFrame
  | some .closed, .start => some .opened
  | some .opened, .tx .addr b _ => some (.addressed (dirOf b) 0)
  | some (.addressed .w k), .tx .data _ _ => some (.addressed .w (k + 1))
  | some (.addressed .r k), .rx _ _ _ => some (.addressed .r (k + 1))
  | some .opened, .stop => some .closed
  | some (.addressed _ _), .stop => some .closed
  | _, _ => none

/-- The framing of a trace; none when some event is out of place. -/
def traceFrame (t : List BusEvent) : Option TraceFrame := t.foldl frameEvent (some .closed)

/-- The trace is well framed, and the transaction at its end is as far as `FS` and `DIR` say. -/
def State.framed (s : State) : Prop :=
  match s.fs with
  | .idle => traceFrame s.trace = some .closed
  | .started => traceFrame s.trace = some .opened
  | .addressPhase => traceFrame s.trace = some .opened
  | .dataPhase k => traceFrame s.trace = some (.addressed s.dir k)
  | .stopped => traceFrame s.trace = some .opened ∨ ∃ d k, traceFrame s.trace = some (.addressed d k)

/-! ### Runs -/

/-- The run that plays the given turns from `s`, one step a turn: the machine's own run, with the turns as its
schedule. -/
def runTurns (turns : List Turn) (s : State) : Host.Outcome State Fault Refusal :=
  Sys2Proof.core.run turns.length { s with schedule := turns }

/-- The turns of a micro-step whose operation the bus then answers. -/
def answered (a : Answer) : List Turn := [.sequencer, .answer a]

/-- The turns in which the host presents a command. -/
def issueTurn (i : Instr) : Turn := presentTurn (encode i)

/-- The turns of a command run from issue to response, given the answers to the operations it triggers, in order: one
answered micro-step per answer, then the micro-step that responds. -/
def commandTurns (i : Instr) (answers : List Answer) : List Turn :=
  issueTurn i :: (answers.flatMap answered ++ [.sequencer])

/-- A composed command run to its response and on to the completion of its STOP. -/
def transactionTurns (i : Instr) (answers : List Answer) : List Turn := commandTurns i answers ++ [Turn.stopCompletion]

/-- The bus events that open a transaction. -/
def openingEvents (a : Addr7) (d : Dir) (r : TxAnswer) : List BusEvent := [BusEvent.start, BusEvent.tx .addr (sla a d) r]

/-- The bus events of data bytes sent and acknowledged. -/
def ackedEvents (bytes : List Byte) : List BusEvent := bytes.map fun b => BusEvent.tx .data b .ack

/-- The bus events of a buffer read: ACK for every byte but the last, NACK for the last (R164). -/
def readEvents (l : List (RxOutcome × Byte)) : List BusEvent :=
  l.zipIdx.map fun p => BusEvent.rx p.1.2 (decide (p.2 + 1 < l.length)) p.1.1

/-- The answers to the receives of a buffer read. -/
def readAnswers (l : List (RxOutcome × Byte)) : List Answer := l.map fun p => Answer.rx p.1 p.2

/-- The answers to `n` bytes sent and acknowledged. -/
def ackAnswers (n : Nat) : List Answer := List.replicate n (Answer.tx .ack)

/-! ### The primitive sequences of R106 -/

/-- `sendStart(); writeByte(sla(a, d))`. -/
def openingPrimitives (a : Addr7) (d : Dir) (r0 : StartAnswer) (r1 : TxAnswer) : List Turn :=
  commandTurns .sendStart [Answer.start r0] ++ commandTurns (.writeByte (sla a d)) [Answer.tx r1]

/-- `sendStop()`, to the completion of the STOP. -/
def closingPrimitive : List Turn := commandTurns .sendStop [] ++ [Turn.stopCompletion]

/-- `writeByte` of each byte, all acknowledged. -/
def ackedPrimitives (bytes : List Byte) : List Turn :=
  bytes.flatMap fun b => commandTurns (.writeByte b) [Answer.tx .ack]

/-- The responses of `sendStart()`, of `writeByte` with the results `ks`, and of `sendStop()`. -/
def writeResults (ks : List Bool) : List Response :=
  Response.mk true [] :: (ks.map (fun k => Response.mk k []) ++ [Response.mk true []])

/-- `readByteAck()` for every byte but the last, `readByteNoAck()` for the last. -/
def readPrimitives (l : List (RxOutcome × Byte)) : List Turn :=
  l.zipIdx.flatMap fun p =>
    commandTurns (if p.2 + 1 < l.length then .readByteAck else .readByteNoAck) [Answer.rx p.1.1 p.1.2]

/-- The block is enabled, free and between transactions: what the end of every good transaction leaves. -/
def State.ready (s : State) : Prop :=
  s.flt = none ∧ s.cr.en = true ∧ s.seq.busy = false ∧ s.pend = .none ∧ s.fs = .idle

/-- What a composed command and its primitive sequence agree on (42_transactions.md R167): the register block, `FS`,
`DIR`, `PEND`, `ABN`, `TRACE`. -/
def State.busView (s : State) : (Byte × Byte × Byte × Byte × Byte) × Framing × Dir × Pending × Bool × List BusEvent :=
  ((s.brr, s.readCR, s.readSR, s.dr, s.oar), s.fs, s.dir, s.pend, s.abn, s.trace)

end Sys2Proof.Machine
end

