-- ==== Sys2Proof/Certificates/Slice0/Obligations.lean ====
section
/-! DEFINITION. The statements about the model, for the provers. Each docstring names the rules of spec/ it comes from, and
the log entries of the model's own choices it rests on. Most rules here are marked `[decision: D<n>]` in spec/: they are
the spec's own choices, not its source's, and the statements on them are 'derived'. A statement about `TRACE` is about the
history the engine keeps; it says something of the wire only while `ABN = 0` (43_engine.md R193). -/

open Sys2Proof Sys2Proof.Machine

/-! ### Encodings -/

/-- R92 to R96: decoding the encoding of a well-formed command gives the command back, every operand at every value. -/
def Obligations.CommandRoundTrip : Prop :=
  ∀ i : Instr, i.isCommand = true → i.wellFormed = true →
    ∃ bytes, encode i = .command bytes ∧ decodeCommand bytes = .ok i

/-- R97: a byte string that decodes is the encoding of the one well-formed command it decodes to. -/
def Obligations.DecodedStringIsTheEncoding : Prop :=
  ∀ (bytes : List Byte) (i : Instr), decodeCommand bytes = .ok i →
    i.isCommand = true ∧ i.wellFormed = true ∧ encode i = .command bytes

/-- R97: exactly which strings are illegal, and that issuing one raises `IllegalCommand` with the string recorded. (The
second clause supposes no command executing: `Reentrancy` is checked first, R141.) -/
def Obligations.IllegalCommandStrings : Prop :=
  (∀ bytes : List Byte, (∃ e, decodeCommand bytes = .error e) ↔
    bytes = [] ∨
      (bytes.getD 0 0).toNat = 0 ∨ 12 ≤ (bytes.getD 0 0).toNat ∨
      commandLength (bytes.getD 0 0) (bytes.getD 2 0) ≠ some bytes.length ∨
      ((bytes.getD 0 0).toNat ∈ [0x07, 0x08, 0x09, 0x0A, 0x0B] ∧ (bytes.getD 1 0).getLsbD 7 = true)) ∧
  (∀ (s : State) (bytes : List Byte) (rest : List Turn), s.flt = none → s.seq.busy = false →
    s.schedule = .issue bytes :: rest → (∃ e, decodeCommand bytes = .error e) →
    step s = .next { s with schedule := rest, flt := some (.illegalCommand bytes) })

/-- R99: each control-register action under its condition is what its value decodes to, and a value decodes to an action
of that value only. -/
def Obligations.ControlActionsDecode : Prop :=
  (∀ (i : Instr) (fs : Framing) (dir : Dir), i.isCommand = false → controlCondition i fs dir = true →
    decode (encode i) fs dir = .ok i) ∧
  (∀ (v : Byte) (fs : Framing) (dir : Dir) (i : Instr), decodeControl v fs dir = .ok i → encode i = .control v)

/-- R105, R99: words written out from the encoding tables decode to the instructions they stand for. -/
def Obligations.WordsDecode : Prop :=
  decodeCommand [0x01, 0x00, 0x12, 0x7A, 0x00, 0x64, 0x00] = .ok (.initializeBus 8000000 100) ∧
  decodeCommand [0x02] = .ok .sendStart ∧
  decodeCommand [0x04, 0xAA] = .ok (.writeByte 0xAA) ∧
  decodeCommand [0x07, 0x42] = .ok (.registerOwnAddress 0x42) ∧
  decodeCommand [0x0A, 0x50, 0x03, 0x00, 0x11, 0x22] = .ok (.writeBuffer 0x50 [0x00, 0x11, 0x22]) ∧
  decodeCommand [0x0B, 0x7F, 0xFF] = .ok (.readBuffer 0x7F 255) ∧
  decodeControl 0xA4 .idle .w = .ok .start ∧
  decodeControl 0x84 (.dataPhase 2) .r = .ok .rxn

/-! ### One step -/

/-- R140, R141 (log 1, log 6, log 11): a step whose turn presents a command that decodes to `i`, no command executing, is
`exec i`, the turn consumed; one whose turn is a raw control write that decodes to `i` is `exec i` in every live state; a
sequencer turn, and the block's own progress, are `exec` of the executing command; and a table word placed by
`withFetchWord` is what the next step presents. -/
def Obligations.StepRunsDecodedInstruction : Prop :=
  (∀ (s : State) (bytes : List Byte) (rest : List Turn) (i : Instr), s.flt = none → s.seq.busy = false →
    s.schedule = .issue bytes :: rest → decodeCommand bytes = .ok i →
    step s = exec i { s with schedule := rest }) ∧
  (∀ (s : State) (v : Byte) (rest : List Turn) (i : Instr), s.flt = none →
    s.schedule = .control v :: rest → decodeControl v s.fs s.dir = .ok i →
    step s = exec i { s with schedule := rest }) ∧
  (∀ (s : State) (rest : List Turn), s.flt = none → s.seq.busy = true → s.schedule = .sequencer :: rest →
    step s = exec s.seq.cmd { s with schedule := rest }) ∧
  (∀ s : State, s.flt = none → s.schedule = [] → s.sequencerEnabled = true → step s = exec s.seq.cmd s) ∧
  (∀ (s : State) (nbits w : Nat) (i : Instr), s.flt = none →
    (s.seq.busy = false ∨ ∃ v, tableWord nbits w = .control v) →
    decode (tableWord nbits w) s.fs s.dir = .ok i → step (s.withFetchWord nbits w) = exec i s)

/-- R141: the admission matrix, command by command, and which commands need `EN = 1`. -/
def Obligations.AdmissionMatrix : Prop :=
  ∀ (fs : Framing) (dir : Dir) (c f n : Nat) (a : Addr7) (b : Byte) (bs : List Byte),
    (∀ i ∈ [Instr.initializeBus c f, .registerOwnAddress a], touchesBus i = false ∧ admittedIn i fs dir = true) ∧
    (∀ i ∈ [Instr.sendStart, .sendStop, .writeByte b, .readByteAck, .readByteNoAck, .writeByteTo a b, .readByteFrom a,
      .writeBuffer a bs, .readBuffer a n], touchesBus i = true) ∧
    (∀ i ∈ [Instr.sendStart, .writeByteTo a b, .readByteFrom a, .writeBuffer a bs, .readBuffer a n],
      (admittedIn i fs dir = true ↔ fs = .idle ∨ fs = .stopped)) ∧
    (admittedIn .sendStop fs dir = true ↔ fs = .started ∨ ∃ k, fs = .dataPhase k) ∧
    (admittedIn (.writeByte b) fs dir = true ↔ fs = .started ∨ (dir = .w ∧ ∃ k, fs = .dataPhase k)) ∧
    (∀ i ∈ [Instr.readByteAck, .readByteNoAck], (admittedIn i fs dir = true ↔ dir = .r ∧ ∃ k, fs = .dataPhase k))

/-- R140 step 1, R69: every command, presented to a free block in a state that admits it, is captured whole and nothing
else changes. -/
def Obligations.AdmittedCommandIsCaptured : Prop :=
  ∀ (i : Instr) (s : State), i.isCommand = true → s.flt = none → s.seq.busy = false →
    (∀ c f, i = .initializeBus c f → divisor c f ≠ none) →
    (touchesBus i = true → s.cr.en = true ∧ admittedIn i s.fs s.dir = true) →
    exec i s = .next { s with seq := ⟨true, i, 1, 0, true, [], s.seq.s⟩ }

/-- R141, R214: the checks at issue, in their order, and what each records; each changes `FLT` alone. That `Reentrancy`
records the byte string presented, a command or not, is the model's choice (log 22: R211 says the offending command). -/
def Obligations.IssueChecksInOrder : Prop :=
  ∀ (s : State) (bytes : List Byte) (rest : List Turn), s.flt = none → s.schedule = .issue bytes :: rest →
    (s.seq.busy = true →
      step s = .next { s with schedule := rest, flt := some (.reentrancy (.command bytes)) }) ∧
    (s.seq.busy = false →
      ((∃ e, decodeCommand bytes = .error e) →
        step s = .next { s with schedule := rest, flt := some (.illegalCommand bytes) }) ∧
      (∀ c f, decodeCommand bytes = .ok (.initializeBus c f) → divisor c f = none →
        step s = .next { s with schedule := rest, flt := some (.configError c f) }) ∧
      (∀ i, decodeCommand bytes = .ok i → touchesBus i = true → s.cr.en = false →
        step s = .next { s with schedule := rest, flt := some (.notEnabled i) }) ∧
      (∀ i, decodeCommand bytes = .ok i → touchesBus i = true → s.cr.en = true → admittedIn i s.fs s.dir = false →
        step s = .next { s with schedule := rest, flt := some (.protocolFault i s.fs s.dir) }))

/-- R212: raising a fault changes nothing but `FLT` (and consumes the turn); then no step is taken but a reset, which
alone clears `FLT`; a faulted state is never final. -/
def Obligations.FaultChangesOnlyFlt : Prop :=
  (∀ (s t : State) (r : Fault), s.flt = none → step s = .next t → t.flt = some r →
    t = { s with flt := some r, schedule := s.schedule.tail }) ∧
  (∀ (s : State) (r : Fault), s.flt = some r → s.schedule.head? ≠ some .reset → step s = .fault r) ∧
  (∀ (s : State) (rest : List Turn), s.schedule = .reset :: rest →
    step s = .next { State.reset with schedule := rest }) ∧
  (∀ s : State, s.flt ≠ none → ¬ s.final)

/-! ### Arithmetic and flags -/

/-- R131: when the divisor is defined, and its value. -/
def Obligations.DivisorExact : Prop :=
  ∀ c f d : Nat, divisor c f = some d ↔
    f ≠ 0 ∧ 16 ≤ c / (f * 1000) ∧ d = (c / (f * 1000) - 16) / 2 ∧ d ≤ 255

/-- R254 (derived there): with truncation the programmed bus frequency, `c / (16 + 2 * d * prescaler)` taken exactly, is
at least the one requested. -/
def Obligations.ProgrammedFrequencyNotBelowRequested : Prop :=
  ∀ c f d : Nat, divisor c f = some d → f * 1000 * (16 + 2 * d * Config.prescaler) ≤ c

/-- R101: the device address in bits 7:1, the direction in bit 0, with the source's examples. -/
def Obligations.AddressByteFields : Prop :=
  ∀ a : Addr7,
    (sla a .w).toNat = 2 * a.toNat ∧ (sla a .r).toNat = 2 * a.toNat + 1 ∧
    dirOf (sla a .w) = .w ∧ dirOf (sla a .r) = .r ∧
    sla 0x10 .w = 0x20 ∧ sla 0x10 .r = 0x21

/-- R104: the success predicate is the four-element set (the numbers are D7's). -/
def Obligations.AckOkExactly : Prop :=
  ∀ s : Byte, ackOk s = true ↔ s = 0x18 ∨ s = 0x28 ∨ s = 0x40 ∨ s = 0x50

/-- R190, R103 (D7, D12): the status byte of every completion. -/
def Obligations.StatusBytes : Prop :=
  startCode .done ++ 0#3 = 0x08#8 ∧ startCode .busErr ++ 0#3 = 0x00#8 ∧ noInfo ++ 0#3 = 0xF8#8 ∧
  txaCode .w .ack ++ 0#3 = 0x18#8 ∧ txaCode .w .nack ++ 0#3 = 0x20#8 ∧
  txaCode .r .ack ++ 0#3 = 0x40#8 ∧ txaCode .r .nack ++ 0#3 = 0x48#8 ∧
  (∀ d, txaCode d .arbLost ++ 0#3 = 0x38#8 ∧ txaCode d .busErr ++ 0#3 = 0x00#8) ∧
  txdCode .ack ++ 0#3 = 0x28#8 ∧ txdCode .nack ++ 0#3 = 0x30#8 ∧
  txdCode .arbLost ++ 0#3 = 0x38#8 ∧ txdCode .busErr ++ 0#3 = 0x00#8 ∧
  rxCode true .normal ++ 0#3 = 0x50#8 ∧ rxCode false .normal ++ 0#3 = 0x58#8 ∧
  (∀ k, rxCode k .arbLost ++ 0#3 = 0x38#8 ∧ rxCode k .busErr ++ 0#3 = 0x00#8)

/-! ### Registers -/

/-- R64, R22, R24, R41 items 6 and 7: the bits a read of `CR` and `SR` returns, in every state. -/
def Obligations.RegisterReadBits : Prop :=
  ∀ s : State,
    (s.readReg .cr).getLsbD 7 = s.cr.rdy ∧ (s.readReg .cr).getLsbD 6 = s.cr.acken ∧
    (s.readReg .cr).getLsbD 5 = s.cr.sta ∧ ((s.readReg .cr).getLsbD 4 = true ↔ s.fs = .stopped) ∧
    (s.readReg .cr).getLsbD 3 = false ∧ (s.readReg .cr).getLsbD 2 = s.cr.en ∧
    (s.readReg .cr).getLsbD 1 = false ∧ (s.readReg .cr).getLsbD 0 = false ∧
    (s.readReg .sr).extractLsb' 3 5 = s.srCode ∧ (s.readReg .sr).extractLsb' 0 3 = 0

/-- R64, R61, R62 (D2, D3, D26): a write of `BRR`, `OAR` or `DR` stores the byte and nothing else, a write of `SR` is
ignored, each register is read and written at its offset, and no other offset or width exists. That `DR` is stored with an
operation pending is the model's choice (log 26). -/
def Obligations.RegisterSpaceAccess : Prop :=
  ∀ (s : State) (v : Byte),
    s.memWrite 0 1 v = .next { s with brr := v } ∧ s.memWrite 1 1 v = .next s ∧
    s.memWrite 2 1 v = .next { s with oar := v } ∧ s.memWrite 3 1 v = .next { s with dr := v } ∧
    s.memWrite 4 1 v = settle s (s.writeCR v) ∧
    s.memRead 0 1 = .ok s.brr ∧ s.memRead 1 1 = .ok s.readSR ∧ s.memRead 2 1 = .ok s.oar ∧
    s.memRead 3 1 = .ok s.dr ∧ s.memRead 4 1 = .ok s.readCR ∧
    (∀ o, 5 ≤ o → s.memRead o 1 = .error (.noSuchRegister o) ∧ s.memWrite o 1 v = .refused (.noSuchRegister o)) ∧
    (∀ o n, n ≠ 1 → s.memRead o n = .error (.accessWidth n) ∧ s.memWrite o n v = .refused (.accessWidth n))

/-- R180, R99, R100: exactly which `CR` writes are accepted, and what a reserved one raises. -/
def Obligations.ControlWriteDecode : Prop :=
  ∀ (s : State) (v : Byte),
    ((∃ t, s.writeCR v = .ok t) ↔
      v = 0x04 ∨ v = 0x44 ∨ (v = 0xA4 ∧ s.fs = .idle) ∨
      (v = 0x94 ∧ (s.fs = .started ∨ ∃ k, s.fs = .dataPhase k)) ∨
      (v = 0x84 ∧ (s.fs = .started ∨ ∃ k, s.fs = .dataPhase k)) ∨
      (v = 0xC4 ∧ s.dir = .r ∧ ∃ k, s.fs = .dataPhase k)) ∧
    (∀ r, s.writeCR v = .error r → r = .illegalControl v s.fs s.dir)

/-! ### The control-register actions -/

/-- R194, R195: the two writes that trigger nothing, in any state; and their examples from reset. -/
def Obligations.EnableActions : Prop :=
  (∀ s : State, s.flt = none →
    exec .enable s = .next { s with cr := ⟨s.cr.rdy, false, false, true⟩ } ∧
    exec .enableAck s = .next { s with cr := ⟨s.cr.rdy, true, false, true⟩ }) ∧
  (∃ t, exec .enable State.reset = .next t ∧ t.readCR = 0x04) ∧
  (∃ t, exec .enableAck State.reset = .next t ∧ t.readCR = 0x44)

/-- R181, R183, R185, R187, R189 (issue): what each trigger does under its condition, and that it does nothing else. The
rules suppose `PEND = None` (R180); that the same holds with an operation pending is the model's choice (log 17). -/
def Obligations.TriggerActions : Prop :=
  ∀ (s : State) (k : Nat), s.flt = none →
    (s.fs = .idle → exec .start s = .next { s with cr := ⟨false, false, true, true⟩, pend := .start }) ∧
    (s.fs = .started → exec .stop s = .next { s with cr := ⟨false, false, false, true⟩, fs := .stopped }) ∧
    (s.fs = .dataPhase k → exec .stop s = .next { s with cr := ⟨false, false, false, true⟩, fs := .stopped }) ∧
    (s.fs = .started →
      exec .txa s = .next { s with cr := ⟨false, false, false, true⟩, pend := .txAddr, fs := .addressPhase }) ∧
    (s.fs = .dataPhase k → s.dir = .w →
      exec .txd s = .next { s with cr := ⟨false, false, false, true⟩, pend := .txData }) ∧
    (s.fs = .dataPhase k → s.dir = .r →
      exec .rxn s = .next { s with cr := ⟨false, false, false, true⟩, pend := .rx }) ∧
    (s.fs = .dataPhase k → s.dir = .r →
      exec .rxa s = .next { s with cr := ⟨false, true, false, true⟩, pend := .rx })

/-- R100, R197, R211 F6: a raw write of a value that is none of the six, or one of them in a state R100 reserves it in,
raises `IllegalControl` with the value, `FS` and `DIR` and changes nothing else, in every live state: a command executing
or an operation pending makes no difference (R214). The raw control level is log 6. -/
def Obligations.ReservedControlRaises : Prop :=
  ∀ (s : State) (v : Byte) (rest : List Turn), s.flt = none → s.schedule = .control v :: rest →
    (v ∉ [0x04, 0x44, 0xA4, 0x94, 0x84, 0xC4] ∨
      (v = 0xA4 ∧ s.fs ≠ .idle) ∨
      (v ∈ [0x94, 0x84] ∧ (s.fs = .idle ∨ s.fs = .addressPhase ∨ s.fs = .stopped)) ∨
      (v = 0xC4 ∧ ¬ (s.dir = .r ∧ ∃ k, s.fs = .dataPhase k))) →
    step s = .next { s with schedule := rest, flt := some (.illegalControl v s.fs s.dir) }

/-! ### The engine's completions -/

/-- R182: START completion. -/
def Obligations.StartCompletion : Prop :=
  ∀ (s : State) (r : StartAnswer) (rest : List Turn), s.flt = none → s.pend = .start →
    s.schedule = .answer (.start r) :: rest →
    step s = .next { s with
      schedule := rest
      srCode := match r with
        | .done => 1
        | .busErr => 0
      abn := s.abn || decide (r = .busErr)
      fs := .started
      pend := .none
      cr := { s.cr with rdy := true }
      trace := s.trace ++ [.start] }

/-- R184: address-byte completion, the direction taken from bit 0 of the byte sent, for every response alike. -/
def Obligations.AddressByteCompletion : Prop :=
  ∀ (s : State) (r : TxAnswer) (rest : List Turn), s.flt = none → s.pend = .txAddr →
    s.schedule = .answer (.tx r) :: rest →
    step s = .next { s with
      schedule := rest
      srCode := txaCode (if s.dr.getLsbD 0 then .r else .w) r
      dir := if s.dr.getLsbD 0 then .r else .w
      fs := .dataPhase 0
      pend := .none
      cr := { s.cr with rdy := true }
      abn := s.abn || decide (r = .arbLost ∨ r = .busErr)
      trace := s.trace ++ [.tx .addr s.dr r] }

/-- R186: data-byte completion; `DR` and `DIR` are unchanged. -/
def Obligations.DataByteCompletion : Prop :=
  ∀ (s : State) (k : Nat) (r : TxAnswer) (rest : List Turn), s.flt = none → s.pend = .txData → s.fs = .dataPhase k →
    s.schedule = .answer (.tx r) :: rest →
    step s = .next { s with
      schedule := rest
      srCode := txdCode r
      fs := .dataPhase (k + 1)
      pend := .none
      cr := { s.cr with rdy := true }
      abn := s.abn || decide (r = .arbLost ∨ r = .busErr)
      trace := s.trace ++ [.tx .data s.dr r] }

/-- R188: receive completion, for every byte the environment drives. -/
def Obligations.ReceiveCompletion : Prop :=
  ∀ (s : State) (k : Nat) (o : RxOutcome) (b : Byte) (rest : List Turn), s.flt = none → s.pend = .rx →
    s.fs = .dataPhase k → s.schedule = .answer (.rx o b) :: rest →
    step s = .next { s with
      schedule := rest
      dr := b
      srCode := rxCode s.cr.acken o
      fs := .dataPhase (k + 1)
      pend := .none
      cr := { s.cr with rdy := true }
      abn := s.abn || decide (o = .arbLost ∨ o = .busErr)
      trace := s.trace ++ [.rx b s.cr.acken o] }

/-- R189 (D10, D11): STOP completion, on the engine's turn and, with nothing scheduled and no sequencer step enabled, on
the block's own (the model's choice, log 1); `RDY` is not set. -/
def Obligations.StopCompletion : Prop :=
  ∀ s : State, s.flt = none → s.fs = .stopped →
    (∀ rest, s.schedule = .stopCompletion :: rest →
      step s = .next { s with schedule := rest, fs := .idle, srCode := 31, trace := s.trace ++ [.stop] }) ∧
    (s.schedule = [] → s.sequencerEnabled = false →
      step s = .next { s with fs := .idle, srCode := 31, trace := s.trace ++ [.stop] })

/-! ### The commands, micro-step by micro-step

Each statement supposes that the command is executing and at the micro-step named, and gives the whole next state. The
framing premises are the ones the command's earlier steps establish (`SequencerStaysInPhase`). -/

/-- R130: `initialize` programs the divisor and enables. -/
def Obligations.InitializeSteps : Prop :=
  ∀ (c f d : Nat) (s : State), s.flt = none → divisor c f = some d →
    s.seq.busy = true → s.seq.cmd = .initializeBus c f → s.seq.mpc = 1 →
    exec (.initializeBus c f) s = .next { s with
      brr := BitVec.ofNat 8 d
      cr := ⟨s.cr.rdy, false, false, true⟩
      seq := { s.seq with busy := false }
      out := s.out ++ [⟨true, []⟩] }

/-- R142: `sendStart`. -/
def Obligations.SendStartSteps : Prop :=
  ∀ s : State, s.flt = none → s.seq.busy = true → s.seq.cmd = .sendStart →
    (s.seq.mpc = 1 → s.fs = .idle →
      exec .sendStart s = .next { s with
        cr := ⟨false, false, true, true⟩, pend := .start, seq := { s.seq with mpc := 2 } }) ∧
    (s.seq.mpc = 2 → s.cr.rdy = true →
      exec .sendStart s = .next { s with seq := { s.seq with busy := false }, out := s.out ++ [⟨true, []⟩] })

/-- R143: `sendStop`. -/
def Obligations.SendStopSteps : Prop :=
  ∀ s : State, s.flt = none → s.seq.busy = true → s.seq.cmd = .sendStop → s.seq.mpc = 1 →
    (s.fs = .started ∨ ∃ k, s.fs = .dataPhase k) →
    exec .sendStop s = .next { s with
      cr := ⟨false, false, false, true⟩
      fs := .stopped
      seq := { s.seq with busy := false }
      out := s.out ++ [⟨true, []⟩] }

/-- R144: `writeByte`, as address byte and as data byte, and its result. -/
def Obligations.WriteByteSteps : Prop :=
  ∀ (b : Byte) (s : State), s.flt = none → s.seq.busy = true → s.seq.cmd = .writeByte b →
    (s.seq.mpc = 1 → s.fs = .started →
      exec (.writeByte b) s = .next { s with
        dr := b
        cr := ⟨false, false, false, true⟩
        pend := .txAddr
        fs := .addressPhase
        seq := { s.seq with mpc := 2 } }) ∧
    (∀ k, s.seq.mpc = 1 → s.fs = .dataPhase k → s.dir = .w →
      exec (.writeByte b) s = .next { s with
        dr := b, cr := ⟨false, false, false, true⟩, pend := .txData, seq := { s.seq with mpc := 2 } }) ∧
    (s.seq.mpc = 2 → s.cr.rdy = true →
      exec (.writeByte b) s = .next { s with
        seq := { s.seq with busy := false, s := s.readSR &&& 0xF8, ok := ackOk (s.readSR &&& 0xF8) }
        out := s.out ++ [⟨ackOk (s.readSR &&& 0xF8), []⟩] })

/-- R145, R146: `readByteAck` and `readByteNoAck`, which differ in the acknowledgment enable alone. -/
def Obligations.ReadByteSteps : Prop :=
  ∀ (i : Instr) (ack : Bool) (s : State), (i = .readByteAck ∧ ack = true) ∨ (i = .readByteNoAck ∧ ack = false) →
    s.flt = none → s.seq.busy = true → s.seq.cmd = i →
    (∀ k, s.seq.mpc = 1 → s.fs = .dataPhase k → s.dir = .r →
      exec i s = .next { s with
        cr := ⟨false, ack, false, true⟩, pend := .rx, seq := { s.seq with mpc := 2 } }) ∧
    (s.seq.mpc = 2 → s.cr.rdy = true →
      exec i s = .next { s with seq := { s.seq with busy := false }, out := s.out ++ [⟨true, [s.dr]⟩] })

/-- R147, R102: `registerOwnAddress`, in every framing state; the byte it writes to `OAR` is the address in bits 7:1, bit 0
clear, with R102's derived example. -/
def Obligations.RegisterOwnAddressSteps : Prop :=
  (∀ (a : Addr7) (s : State), s.flt = none → s.seq.busy = true → s.seq.cmd = .registerOwnAddress a → s.seq.mpc = 1 →
    exec (.registerOwnAddress a) s = .next { s with
      oar := ownAddressByte a
      cr := ⟨s.cr.rdy, true, false, true⟩
      seq := { s.seq with busy := false }
      out := s.out ++ [⟨true, []⟩] }) ∧
  (∀ a : Addr7, (ownAddressByte a).toNat = 2 * a.toNat) ∧ ownAddressByte 0x42 = 0x84

/-- R161: `writeByteTo`; the data byte is sent whatever the address result was. -/
def Obligations.WriteByteToSteps : Prop :=
  ∀ (a : Addr7) (d : Byte) (s : State), s.flt = none → s.seq.busy = true → s.seq.cmd = .writeByteTo a d →
    (s.seq.mpc = 1 → s.fs = .idle →
      exec (.writeByteTo a d) s = .next { s with
        cr := ⟨false, false, true, true⟩, pend := .start, seq := { s.seq with mpc := 2 } }) ∧
    (s.seq.mpc = 2 → s.cr.rdy = true → s.fs = .started →
      exec (.writeByteTo a d) s = .next { s with
        dr := sla a .w
        cr := ⟨false, false, false, true⟩
        pend := .txAddr
        fs := .addressPhase
        seq := { s.seq with mpc := 3 } }) ∧
    (∀ k, s.seq.mpc = 3 → s.cr.rdy = true → s.fs = .dataPhase k → s.dir = .w →
      exec (.writeByteTo a d) s = .next { s with
        dr := d
        cr := ⟨false, false, false, true⟩
        pend := .txData
        seq := { s.seq with
          mpc := 4, s := s.readSR &&& 0xF8, ok := s.seq.ok && ackOk (s.readSR &&& 0xF8) } }) ∧
    (∀ k, s.seq.mpc = 4 → s.cr.rdy = true → s.fs = .dataPhase k →
      exec (.writeByteTo a d) s = .next { s with
        cr := ⟨false, false, false, true⟩
        fs := .stopped
        seq := { s.seq with
          busy := false, s := s.readSR &&& 0xF8, ok := s.seq.ok && ackOk (s.readSR &&& 0xF8) }
        out := s.out ++ [⟨s.seq.ok && ackOk (s.readSR &&& 0xF8), []⟩] })

/-- R162: `readByteFrom`; the byte is read with NACK whatever the address result was. -/
def Obligations.ReadByteFromSteps : Prop :=
  ∀ (a : Addr7) (s : State), s.flt = none → s.seq.busy = true → s.seq.cmd = .readByteFrom a →
    (s.seq.mpc = 1 → s.fs = .idle →
      exec (.readByteFrom a) s = .next { s with
        cr := ⟨false, false, true, true⟩, pend := .start, seq := { s.seq with mpc := 2 } }) ∧
    (s.seq.mpc = 2 → s.cr.rdy = true → s.fs = .started →
      exec (.readByteFrom a) s = .next { s with
        dr := sla a .r
        cr := ⟨false, false, false, true⟩
        pend := .txAddr
        fs := .addressPhase
        seq := { s.seq with mpc := 3 } }) ∧
    (∀ k, s.seq.mpc = 3 → s.cr.rdy = true → s.fs = .dataPhase k → s.dir = .r →
      exec (.readByteFrom a) s = .next { s with
        cr := ⟨false, false, false, true⟩
        pend := .rx
        seq := { s.seq with
          mpc := 4, s := s.readSR &&& 0xF8, ok := s.seq.ok && ackOk (s.readSR &&& 0xF8) } }) ∧
    (∀ k, s.seq.mpc = 4 → s.cr.rdy = true → s.fs = .dataPhase k →
      exec (.readByteFrom a) s = .next { s with
        cr := ⟨false, false, false, true⟩
        fs := .stopped
        seq := { s.seq with busy := false, rx := [s.dr] }
        out := s.out ++ [⟨s.seq.ok, [s.dr]⟩] })

/-- R163: `writeBuffer`; step 3 stops on the first byte not acknowledged and after the last one, and otherwise sends
the next byte of `[sla(address, 0)] ++ bytes`. -/
def Obligations.WriteBufferSteps : Prop :=
  ∀ (a : Addr7) (bytes : List Byte) (s : State), s.flt = none → s.seq.busy = true →
    s.seq.cmd = .writeBuffer a bytes →
    (s.seq.mpc = 1 → s.fs = .idle →
      exec (.writeBuffer a bytes) s = .next { s with
        cr := ⟨false, false, true, true⟩, pend := .start, seq := { s.seq with mpc := 2 } }) ∧
    (s.seq.mpc = 2 → s.cr.rdy = true → s.fs = .started →
      exec (.writeBuffer a bytes) s = .next { s with
        dr := sla a .w
        cr := ⟨false, false, false, true⟩
        pend := .txAddr
        fs := .addressPhase
        seq := { s.seq with mpc := 3, idx := 1 } }) ∧
    (∀ k, s.seq.mpc = 3 → s.cr.rdy = true → s.fs = .dataPhase k →
      (s.seq.ok && ackOk (s.readSR &&& 0xF8)) = false →
      exec (.writeBuffer a bytes) s = .next { s with
        cr := ⟨false, false, false, true⟩
        fs := .stopped
        seq := { s.seq with busy := false, s := s.readSR &&& 0xF8, ok := false }
        out := s.out ++ [⟨false, []⟩] }) ∧
    (∀ k, s.seq.mpc = 3 → s.cr.rdy = true → s.fs = .dataPhase k →
      (s.seq.ok && ackOk (s.readSR &&& 0xF8)) = true → s.seq.idx = bytes.length + 1 →
      exec (.writeBuffer a bytes) s = .next { s with
        cr := ⟨false, false, false, true⟩
        fs := .stopped
        seq := { s.seq with busy := false, s := s.readSR &&& 0xF8, ok := true }
        out := s.out ++ [⟨true, []⟩] }) ∧
    (∀ k b, s.seq.mpc = 3 → s.cr.rdy = true → s.fs = .dataPhase k → s.dir = .w →
      (s.seq.ok && ackOk (s.readSR &&& 0xF8)) = true → (sla a .w :: bytes)[s.seq.idx]? = some b →
      exec (.writeBuffer a bytes) s = .next { s with
        dr := b
        cr := ⟨false, false, false, true⟩
        pend := .txData
        seq := { s.seq with s := s.readSR &&& 0xF8, ok := true, idx := s.seq.idx + 1 } })

/-- R164: `readBuffer`; every byte but the last is answered with ACK (`0xC4`), the last with NACK (`0x84`). -/
def Obligations.ReadBufferSteps : Prop :=
  ∀ (a : Addr7) (n : Nat) (s : State), s.flt = none → s.seq.busy = true → s.seq.cmd = .readBuffer a n →
    (s.seq.mpc = 1 → s.fs = .idle →
      exec (.readBuffer a n) s = .next { s with
        cr := ⟨false, false, true, true⟩, pend := .start, seq := { s.seq with mpc := 2 } }) ∧
    (s.seq.mpc = 2 → s.cr.rdy = true → s.fs = .started →
      exec (.readBuffer a n) s = .next { s with
        dr := sla a .r
        cr := ⟨false, false, false, true⟩
        pend := .txAddr
        fs := .addressPhase
        seq := { s.seq with mpc := 3 } }) ∧
    (∀ k, s.seq.mpc = 3 → s.cr.rdy = true → s.fs = .dataPhase k → n = 0 →
      exec (.readBuffer a n) s = .next { s with
        cr := ⟨false, false, false, true⟩
        fs := .stopped
        seq := { s.seq with
          busy := false, s := s.readSR &&& 0xF8, ok := s.seq.ok && ackOk (s.readSR &&& 0xF8) }
        out := s.out ++ [⟨s.seq.ok && ackOk (s.readSR &&& 0xF8), []⟩] }) ∧
    (∀ k, s.seq.mpc = 3 → s.cr.rdy = true → s.fs = .dataPhase k → s.dir = .r → s.seq.idx = 0 → 0 < n →
      exec (.readBuffer a n) s = .next { s with
        cr := ⟨false, decide (1 < n), false, true⟩
        pend := .rx
        seq := { s.seq with
          mpc := 4, s := s.readSR &&& 0xF8, ok := s.seq.ok && ackOk (s.readSR &&& 0xF8) } }) ∧
    (∀ k, s.seq.mpc = 4 → s.cr.rdy = true → s.fs = .dataPhase k → s.seq.idx + 1 = n →
      exec (.readBuffer a n) s = .next { s with
        cr := ⟨false, false, false, true⟩
        fs := .stopped
        seq := { s.seq with busy := false, rx := s.seq.rx ++ [s.dr], idx := s.seq.idx + 1 }
        out := s.out ++ [⟨s.seq.ok, s.seq.rx ++ [s.dr]⟩] }) ∧
    (∀ k, s.seq.mpc = 4 → s.cr.rdy = true → s.fs = .dataPhase k → s.dir = .r → s.seq.idx + 1 < n →
      exec (.readBuffer a n) s = .next { s with
        cr := ⟨false, decide (s.seq.idx + 2 < n), false, true⟩
        pend := .rx
        seq := { s.seq with rx := s.seq.rx ++ [s.dr], idx := s.seq.idx + 1 } })

/-- R8, R140 step 2 (log 4): while its guard is closed, every command holds: the step changes nothing. -/
def Obligations.ClosedGuardHolds : Prop :=
  ∀ s : State, s.flt = none → s.seq.busy = true → s.seq.cmd.isCommand = true →
    ((s.currentGuard = some .awaitRdy ∧ s.cr.rdy = false) ∨ (s.currentGuard = some .holdIdle ∧ s.fs ≠ .idle)) →
    exec s.seq.cmd s = .next s

/-- R198 (log 4): a command awaiting the bus hangs while no answer comes: no turn of the sequencer or the engine, however
many, and no step of its own changes the block, and a further command raises `Reentrancy`, recording the byte string
presented (the model's choice, log 22). -/
def Obligations.HangLasts : Prop :=
  ∀ s : State, EngineInvariant s → s.awaitingBus →
    (∀ turns : List Turn, (∀ t ∈ turns, t = .sequencer ∨ t = .stopCompletion) →
      runTurns turns s = .next { s with schedule := [] }) ∧
    (s.schedule = [] → step s = .next s) ∧
    (∀ bytes rest, s.schedule = .issue bytes :: rest →
      step s = .next { s with schedule := rest, flt := some (.reentrancy (.command bytes)) })

/-! ### Reset and invariants -/

/-- R40, R240 (D23): what reset leaves in the state the spec gives a reset value, and what the registers read. (The other
fields' values are the model's choice, log 5: nothing is said of them.) -/
def Obligations.ResetState : Prop :=
  State.reset.readCR = 0x00 ∧ State.reset.readSR = 0xF8 ∧ State.reset.fs = .idle ∧ State.reset.pend = .none ∧
  State.reset.seq.busy = false ∧ State.reset.flt = none ∧ State.reset.abn = false ∧ State.reset.trace = [] ∧
  State.reset.out = []

/-- R41: the invariants hold at reset, whatever the unspecified fields are. -/
def Obligations.ResetMeetsInvariants : Prop :=
  ∀ (brr dr oar : Byte) (dir : Dir) (cmd : Instr) (mpc idx : Nat) (ok : Bool) (rx : List Byte) (st : Byte),
    let s : State := { State.reset with
      brr := brr, dr := dr, oar := oar, dir := dir, seq := ⟨false, cmd, mpc, idx, ok, rx, st⟩ }
    EngineInvariant s ∧ CommandInvariant s ∧ SequencerInvariant s ∧ s.framed

/-- R41 items 1, 2, 3, 5: every step keeps them, raw control writes included, of a host that presents nothing while the
engine owes a completion, as R180 supposes of every triggering write (`State.orderly`; log 6, log 17). -/
def Obligations.EngineInvariantKept : Prop :=
  ∀ s t : State, EngineInvariant s → s.orderly → step s = .next t → EngineInvariant t

/-- R41 items 1 to 5: every step of a block driven by commands keeps them, whole. -/
def Obligations.CommandInvariantKept : Prop :=
  ∀ s t : State, CommandInvariant s → step s = .next t → CommandInvariant t

/-- R160, R192: every step keeps the executing command in the phase its next micro-step needs, of a host that presents
nothing while the engine owes a completion (`State.orderly`). -/
def Obligations.SequencerStaysInPhase : Prop :=
  ∀ s t : State, SequencerInvariant s → s.orderly → step s = .next t → SequencerInvariant t

/-- R197, R211 F6, R140: no micro-step of a command raises a fault; `IllegalControl` comes only from a raw control
write. -/
def Obligations.CommandsNeverRaiseIllegalControl : Prop :=
  ∀ s t : State, SequencerInvariant s → s.flt = none → step s = .next t →
    (∀ rest, s.schedule = .sequencer :: rest → t.flt = none) ∧
    (s.schedule = [] → t.flt = none) ∧
    (∀ v fs dir, t.flt = some (.illegalControl v fs dir) → ∃ w rest, s.schedule = .control w :: rest)

/-- R168, R243, R37: every step keeps the trace well framed and in step with `FS` and `DIR`: a START only when no
transaction is open, the address byte right after it, `k` data bytes in its direction, one STOP. -/
def Obligations.TraceFramingKept : Prop :=
  ∀ s t : State, EngineInvariant s → s.framed → step s = .next t → t.framed

/-- R192: the rows of the framing table are the only transitions of `FS`, each with its event. (A reset is no row: it
puts `FS` at its reset value.) -/
def Obligations.FramingTransitions : Prop :=
  ∀ s t : State, EngineInvariant s → step s = .next t → s.schedule.head? ≠ some .reset →
    t.fs = s.fs ∨
    (s.fs = .idle ∧ t.fs = .started ∧ t.trace = s.trace ++ [BusEvent.start]) ∨
    (s.fs = .started ∧ t.fs = .addressPhase ∧ t.pend = .txAddr) ∨
    (s.fs = .started ∧ t.fs = .stopped) ∨
    (s.fs = .addressPhase ∧ t.fs = .dataPhase 0 ∧ ∃ r, t.trace = s.trace ++ [BusEvent.tx .addr s.dr r]) ∨
    (∃ k, s.fs = .dataPhase k ∧ t.fs = .dataPhase (k + 1) ∧
      ((∃ r, t.trace = s.trace ++ [BusEvent.tx .data s.dr r]) ∨
        ∃ b o, t.trace = s.trace ++ [BusEvent.rx b s.cr.acken o])) ∨
    (∃ k, s.fs = .dataPhase k ∧ t.fs = .stopped) ∨
    (s.fs = .stopped ∧ t.fs = .idle ∧ t.trace = s.trace ++ [BusEvent.stop])

/-! ### Whole-machine rules -/

/-- R23: `RDY` rises only when the engine completes a pending operation on an answer; a `CR` write leaves it or, with
bit 7 set, clears it. -/
def Obligations.ReadyRisesOnlyOnCompletion : Prop :=
  (∀ s t : State, step s = .next t → s.cr.rdy = false → t.cr.rdy = true →
    s.pend ≠ .none ∧ t.pend = .none ∧ ∃ a rest, s.schedule = .answer a :: rest) ∧
  (∀ (s t : State) (v : Byte), s.writeCR v = .ok t → t.cr.rdy = (s.cr.rdy && !v.getLsbD 7))

/-- R41 item 5, R223: once enabled, the block stays enabled until reset. -/
def Obligations.EnabledStaysEnabled : Prop :=
  ∀ s t : State, step s = .next t → s.schedule.head? ≠ some .reset → s.cr.en = true → t.cr.en = true

/-- R21, R26: `BRR` changes only by `initialize`, to the divisor; `OAR` only by `registerOwnAddress`, to the shifted
address. -/
def Obligations.BitRateAndOwnAddressWriters : Prop :=
  ∀ s t : State, step s = .next t → s.schedule.head? ≠ some .reset →
    (t.brr ≠ s.brr → s.seq.busy = true ∧
      ∃ c f d, s.seq.cmd = .initializeBus c f ∧ divisor c f = some d ∧ t.brr = BitVec.ofNat 8 d) ∧
    (t.oar ≠ s.oar → s.seq.busy = true ∧
      ∃ a, s.seq.cmd = .registerOwnAddress a ∧ t.oar = ownAddressByte a)

/-- R21, R26: no rule reads `BRR` or `OAR`: two states that differ only there take the same step, up to them. -/
def Obligations.BitRateAndOwnAddressUnread : Prop :=
  ∀ (s : State) (x y : Byte),
    (∀ t, step s = .next t → ∃ x' y', step { s with brr := x, oar := y } = .next { t with brr := x', oar := y' }) ∧
    (∀ r, step s = .fault r → step { s with brr := x, oar := y } = .fault r) ∧
    (∀ r, step s ≠ .refused r)

/-- R36, R37: until reset, `TRACE` and `OUT` only grow, by at most one entry a step, and `ABN` stays set. -/
def Obligations.HistoriesOnlyGrow : Prop :=
  ∀ s t : State, step s = .next t → s.schedule.head? ≠ some .reset →
    (t.trace = s.trace ∨ ∃ e, t.trace = s.trace ++ [e]) ∧
    (t.out = s.out ∨ ∃ r, t.out = s.out ++ [r]) ∧
    (s.abn = true → t.abn = true)

/-- R98, R140 step 3: a response is delivered exactly when an executing command ends. -/
def Obligations.OneResponsePerCommand : Prop :=
  ∀ s t : State, step s = .next t → s.schedule.head? ≠ some .reset →
    ((∃ r, t.out = s.out ++ [r]) ↔ (s.seq.busy = true ∧ t.seq.busy = false))

/-- R199 (D28): a STOP completion and the issue of an admitted command, or the step of a configuration command, can happen in
either order, with the same state after. -/
def Obligations.StopCompletionCommutes : Prop :=
  (∀ (s : State) (bytes : List Byte) (i : Instr), s.flt = none → s.seq.busy = false →
    s.fs = .stopped → decodeCommand bytes = .ok i → admission i s = none →
    ∃ t, runTurns [.issue bytes, .stopCompletion] s = .next t ∧ runTurns [.stopCompletion, .issue bytes] s = .next t) ∧
  (∀ (s : State) (c f : Nat) (a : Addr7), s.flt = none → s.seq.busy = true → s.seq.mpc = 1 → s.fs = .stopped →
    (s.seq.cmd = .initializeBus c f ∧ divisor c f ≠ none) ∨ s.seq.cmd = .registerOwnAddress a →
    ∃ t, runTurns [.sequencer, .stopCompletion] s = .next t ∧ runTurns [.stopCompletion, .sequencer] s = .next t)

/-- R252: a quiescent state of a block driven by commands is faulted, final, hung or left open, one of them only, and
steps to itself unless faulted; a hung one awaits the bus ("never in practice" `FS = Idle`); a live state with a STOP in
progress is never quiescent. -/
def Obligations.QuiescentStatesClassified : Prop :=
  (∀ s : State, CommandInvariant s → SequencerInvariant s → s.quiescent →
    s.flt ≠ none ∨
      (step s = .next s ∧
        ((s.final ∧ ¬ s.hung ∧ ¬ s.leftOpen) ∨ (s.hung ∧ s.awaitingBus ∧ ¬ s.final ∧ ¬ s.leftOpen) ∨
          (s.leftOpen ∧ ¬ s.final ∧ ¬ s.hung)))) ∧
  (∀ s : State, s.flt = none → s.fs = .stopped → ¬ s.quiescent)

/-! ### Whole commands -/

/-- R161, R162: the runs of `writeByteTo` and `readByteFrom` under every three answers, to their STOP: trace, response,
registers. -/
def Obligations.ByteTransactionRuns : Prop :=
  ∀ (s : State) (a : Addr7) (r0 : StartAnswer) (r1 : TxAnswer), s.ready →
    (∀ (d : Byte) (r2 : TxAnswer), ∃ t,
      runTurns (transactionTurns (.writeByteTo a d) [Answer.start r0, Answer.tx r1, Answer.tx r2]) s = .next t ∧
      t.trace = s.trace ++ (openingEvents a .w r1 ++ [BusEvent.tx .data d r2, BusEvent.stop]) ∧
      t.out = s.out ++ [Response.mk (decide (r1 = .ack ∧ r2 = .ack)) []] ∧
      t.ready ∧ t.dr = d ∧ t.readCR = 0x04 ∧ t.readSR = 0xF8 ∧ t.brr = s.brr ∧ t.oar = s.oar ∧
      t.abn = (s.abn || r0.abnormal || r1.abnormal || r2.abnormal)) ∧
    (∀ (o : RxOutcome) (b : Byte), ∃ t,
      runTurns (transactionTurns (.readByteFrom a) [Answer.start r0, Answer.tx r1, Answer.rx o b]) s = .next t ∧
      t.trace = s.trace ++ (openingEvents a .r r1 ++ [BusEvent.rx b false o, BusEvent.stop]) ∧
      t.out = s.out ++ [Response.mk (decide (r1 = .ack)) [b]] ∧
      t.ready ∧ t.dr = b ∧ t.readCR = 0x04 ∧ t.readSR = 0xF8 ∧ t.brr = s.brr ∧ t.oar = s.oar ∧
      t.abn = (s.abn || r0.abnormal || r1.abnormal || o.abnormal))

/-- R163: the runs of `writeBuffer`, for every payload an encoding can hold (R95): all bytes acknowledged; the address
byte not; a data byte not (the bytes after it are never sent). Each ends with one STOP. -/
def Obligations.WriteBufferRun : Prop :=
  ∀ (s : State) (a : Addr7) (r0 : StartAnswer), s.ready →
    (∀ bytes : List Byte, (Instr.writeBuffer a bytes).wellFormed = true → ∃ t,
      runTurns (transactionTurns (.writeBuffer a bytes) (Answer.start r0 :: ackAnswers (bytes.length + 1))) s = .next t ∧
      t.trace = s.trace ++ (openingEvents a .w .ack ++ ackedEvents bytes ++ [BusEvent.stop]) ∧
      t.out = s.out ++ [Response.mk true []] ∧ t.ready) ∧
    (∀ (bytes : List Byte) (r : TxAnswer), (Instr.writeBuffer a bytes).wellFormed = true → r ≠ .ack → ∃ t,
      runTurns (transactionTurns (.writeBuffer a bytes) [Answer.start r0, Answer.tx r]) s = .next t ∧
      t.trace = s.trace ++ (openingEvents a .w r ++ [BusEvent.stop]) ∧
      t.out = s.out ++ [Response.mk false []] ∧ t.ready) ∧
    (∀ (sent : List Byte) (b : Byte) (unsent : List Byte) (r : TxAnswer),
      (Instr.writeBuffer a (sent ++ b :: unsent)).wellFormed = true → r ≠ .ack → ∃ t,
      runTurns (transactionTurns (.writeBuffer a (sent ++ b :: unsent))
        (Answer.start r0 :: (ackAnswers (sent.length + 1) ++ [Answer.tx r]))) s = .next t ∧
      t.trace = s.trace ++ (openingEvents a .w .ack ++ ackedEvents sent ++ [BusEvent.tx .data b r, BusEvent.stop]) ∧
      t.out = s.out ++ [Response.mk false []] ∧ t.ready)

/-- R164, R73: the run of `readBuffer` of length N, for every N an encoding can hold (R95) and every answer: exactly N
bytes, every one but the last answered with ACK, the last with NACK, and `ok` the address byte's result; none is read
when N = 0. -/
def Obligations.ReadBufferRun : Prop :=
  ∀ (s : State) (a : Addr7) (r0 : StartAnswer) (r1 : TxAnswer) (l : List (RxOutcome × Byte)), s.ready →
    (Instr.readBuffer a l.length).wellFormed = true →
    ∃ t, runTurns (transactionTurns (.readBuffer a l.length) (Answer.start r0 :: Answer.tx r1 :: readAnswers l)) s =
        .next t ∧
      t.trace = s.trace ++ (openingEvents a .r r1 ++ readEvents l ++ [BusEvent.stop]) ∧
      t.out = s.out ++ [Response.mk (decide (r1 = .ack)) (l.map Prod.snd)] ∧ t.ready

/-- R167, R106: `writeByteTo` and `readByteFrom` leave the bus as their primitive sequences do under the same answers,
and their responses are the conjunction of the `writeByte` results and the bytes read. -/
def Obligations.ByteTransactionsEqualPrimitives : Prop :=
  ∀ (s : State) (a : Addr7) (r0 : StartAnswer) (r1 : TxAnswer), s.ready →
    (∀ (d : Byte) (r2 : TxAnswer), ∃ t u k1 k2,
      runTurns (transactionTurns (.writeByteTo a d) [Answer.start r0, Answer.tx r1, Answer.tx r2]) s = .next t ∧
      runTurns (openingPrimitives a .w r0 r1 ++ commandTurns (.writeByte d) [Answer.tx r2] ++ closingPrimitive) s =
        .next u ∧
      t.busView = u.busView ∧ t.out = s.out ++ [Response.mk (k1 && k2) []] ∧
      u.out = s.out ++ [Response.mk true [], Response.mk k1 [], Response.mk k2 [], Response.mk true []]) ∧
    (∀ (o : RxOutcome) (b : Byte), ∃ t u k1,
      runTurns (transactionTurns (.readByteFrom a) [Answer.start r0, Answer.tx r1, Answer.rx o b]) s = .next t ∧
      runTurns (openingPrimitives a .r r0 r1 ++ commandTurns .readByteNoAck [Answer.rx o b] ++ closingPrimitive) s =
        .next u ∧
      t.busView = u.busView ∧ t.out = s.out ++ [Response.mk k1 [b]] ∧
      u.out = s.out ++ [Response.mk true [], Response.mk k1 [], Response.mk true [b], Response.mk true []])

/-- R167, R106: `writeBuffer` leaves the bus as `writeByte` of each element does, ending after the first that returns
false, and its response is the conjunction `ks` of the `writeByte` results: with every byte acknowledged, with the address
byte not acknowledged, and with a data byte not acknowledged. -/
def Obligations.WriteBufferEqualsPrimitives : Prop :=
  ∀ (s : State) (a : Addr7) (r0 : StartAnswer), s.ready →
    (∀ bytes : List Byte, (Instr.writeBuffer a bytes).wellFormed = true → ∃ t u ks,
      runTurns (transactionTurns (.writeBuffer a bytes) (Answer.start r0 :: ackAnswers (bytes.length + 1))) s = .next t ∧
      runTurns (openingPrimitives a .w r0 .ack ++ ackedPrimitives bytes ++ closingPrimitive) s = .next u ∧
      t.busView = u.busView ∧ ks.length = bytes.length + 1 ∧ t.out = s.out ++ [Response.mk (ks.all id) []] ∧
      u.out = s.out ++ writeResults ks) ∧
    (∀ (bytes : List Byte) (r : TxAnswer), (Instr.writeBuffer a bytes).wellFormed = true → r ≠ .ack → ∃ t u k,
      runTurns (transactionTurns (.writeBuffer a bytes) [Answer.start r0, Answer.tx r]) s = .next t ∧
      runTurns (openingPrimitives a .w r0 r ++ closingPrimitive) s = .next u ∧ t.busView = u.busView ∧
      t.out = s.out ++ [Response.mk k []] ∧ u.out = s.out ++ writeResults [k]) ∧
    (∀ (sent : List Byte) (b : Byte) (unsent : List Byte) (r : TxAnswer),
      (Instr.writeBuffer a (sent ++ b :: unsent)).wellFormed = true → r ≠ .ack → ∃ t u ks,
      runTurns (transactionTurns (.writeBuffer a (sent ++ b :: unsent))
        (Answer.start r0 :: (ackAnswers (sent.length + 1) ++ [Answer.tx r]))) s = .next t ∧
      runTurns (openingPrimitives a .w r0 .ack ++ ackedPrimitives sent ++ commandTurns (.writeByte b) [Answer.tx r] ++
        closingPrimitive) s = .next u ∧
      t.busView = u.busView ∧ ks.length = sent.length + 2 ∧ t.out = s.out ++ [Response.mk (ks.all id) []] ∧
      u.out = s.out ++ writeResults ks)

/-- R167, R106: `readBuffer` of any length leaves the bus as its primitive sequence does under the same answers, and its
response is the address byte's result and the bytes the primitives read. -/
def Obligations.ReadBufferEqualsPrimitives : Prop :=
  ∀ (s : State) (a : Addr7) (r0 : StartAnswer) (r1 : TxAnswer) (l : List (RxOutcome × Byte)), s.ready →
    (Instr.readBuffer a l.length).wellFormed = true →
    ∃ t u k1,
      runTurns (transactionTurns (.readBuffer a l.length) (Answer.start r0 :: Answer.tx r1 :: readAnswers l)) s =
        .next t ∧
      runTurns (openingPrimitives a .r r0 r1 ++ readPrimitives l ++ closingPrimitive) s = .next u ∧
      t.busView = u.busView ∧ t.out = s.out ++ [Response.mk k1 (l.map Prod.snd)] ∧
      u.out = s.out ++ (Response.mk true [] :: Response.mk k1 [] ::
        (l.map (fun p => Response.mk true [p.2]) ++ [Response.mk true []]))
end

