-- ==== Sys2Proof/Laws/Decode.lean ====
section
/-! SUPPORT. What the operand decoders and encoders of Decode.lean do, once each. -/

namespace Sys2Proof

theorem natOfBytes_lt : ∀ l : List Byte, natOfBytes l < 256 ^ l.length
  | [] => by simp [natOfBytes]
  | b :: bs => by
    have := natOfBytes_lt bs
    have hb := b.isLt
    simp only [natOfBytes, List.length_cons, pow_succ]
    omega

theorem natOfBytes_bytesOfNat : ∀ n v, v < 256 ^ n → natOfBytes (bytesOfNat n v) = v
  | 0, v, h => by simp at h; simp [bytesOfNat, natOfBytes, h]
  | n + 1, v, h => by
    have : v / 256 < 256 ^ n := by rw [pow_succ] at h; omega
    simp only [bytesOfNat, natOfBytes, natOfBytes_bytesOfNat n _ this, BitVec.toNat_ofNat]
    omega

theorem bytesOfNat_natOfBytes : ∀ l : List Byte, bytesOfNat l.length (natOfBytes l) = l
  | [] => rfl
  | b :: bs => by
    have hb := b.isLt
    have h1 : (b.toNat + 256 * natOfBytes bs) / 256 = natOfBytes bs := by omega
    have h2 : BitVec.ofNat 8 (b.toNat + 256 * natOfBytes bs) = b := by
      apply BitVec.eq_of_toNat_eq; simp; omega
    simp [natOfBytes, bytesOfNat, h1, h2, bytesOfNat_natOfBytes bs]

@[simp] theorem length_bytesOfNat : ∀ n v, (bytesOfNat n v).length = n
  | 0, _ => rfl
  | n + 1, v => by simp [bytesOfNat, length_bytesOfNat n]

@[simp] theorem decodeAddress_encodeAddress (a : Addr7) (k : Addr7 → Instr) :
    decodeAddress (encodeAddress a) k = .ok (k a) := by
  have h1 : (encodeAddress a).getLsbD 7 = false := by simp [encodeAddress]
  have h2 : (encodeAddress a).setWidth 7 = a := by simp [encodeAddress]
  simp only [decodeAddress, h1, h2, Bool.false_eq_true, if_false]

/-- A decoded address operand was encoded. -/
theorem decodeAddress_ok {b : Byte} {k : Addr7 → Instr} {i : Instr} (h : decodeAddress b k = .ok i) :
    ∃ a, b = encodeAddress a ∧ i = k a := by
  unfold decodeAddress at h
  split at h
  · cases h
  · rename_i hb
    refine ⟨b.setWidth 7, ?_, by cases h; rfl⟩
    simp only [encodeAddress]
    ext i hi
    simp only [BitVec.getElem_setWidth, BitVec.getLsbD_setWidth]
    by_cases h7 : i = 7
    · subst h7; simpa using hb
    · have : i < 7 := by omega
      simp [this, BitVec.getLsbD_eq_getElem hi]

/-- An address operand is refused exactly when bit 7 is set (R97). -/
theorem decodeAddress_error_iff {b : Byte} {k : Addr7 → Instr} :
    (∃ e, decodeAddress b k = .error e) ↔ b.getLsbD 7 = true := by
  unfold decodeAddress
  split <;> simp_all

/-- A control value decodes only to an action of that value. -/
theorem decodeControl_ok {v : Byte} {fs : Framing} {dir : Dir} {i : Instr} (h : decodeControl v fs dir = .ok i) :
    encode i = .control v := by
  have hv : ∀ n : Nat, v.toNat = n → v = BitVec.ofNat 8 n := fun n h => by rw [← h]; simp
  unfold decodeControl at h
  split at h
  case h_6 => split at h <;> cases h <;> simp [encode, hv _ ‹_›]
  all_goals first | (cases h; simp [encode, hv _ ‹_›]) | cases h

/-- A byte string decodes only to a command. -/
theorem decodeCommand_isCommand {bytes : List Byte} {i : Instr} (h : decodeCommand bytes = .ok i) :
    i.isCommand = true := by
  cases bytes with
  | nil => cases h
  | cons op rest =>
    simp only [decodeCommand, decodeOperands] at h
    split at h
    all_goals try (split at h)
    all_goals try contradiction
    all_goals try (cases h; rfl)
    all_goals try (split at h)
    all_goals try contradiction
    all_goals (obtain ⟨a, -, rfl⟩ := decodeAddress_ok h; rfl)

end Sys2Proof
end

