-- ==== Sys2Proof/Laws/State.lean ====
section
/-! SUPPORT. One lemma per field and update of the state, each true by unfolding the update once, so that no later proof
unfolds a record update. -/

namespace Sys2Proof.Machine

open Sys2Proof

variable (s : State)

/-! ### `raise` -/

@[simp] theorem State.raise_brr (r : Fault) : (s.raise r).brr = s.brr := rfl
@[simp] theorem State.raise_cr (r : Fault) : (s.raise r).cr = s.cr := rfl
@[simp] theorem State.raise_srCode (r : Fault) : (s.raise r).srCode = s.srCode := rfl
@[simp] theorem State.raise_dr (r : Fault) : (s.raise r).dr = s.dr := rfl
@[simp] theorem State.raise_oar (r : Fault) : (s.raise r).oar = s.oar := rfl
@[simp] theorem State.raise_fs (r : Fault) : (s.raise r).fs = s.fs := rfl
@[simp] theorem State.raise_dir (r : Fault) : (s.raise r).dir = s.dir := rfl
@[simp] theorem State.raise_pend (r : Fault) : (s.raise r).pend = s.pend := rfl
@[simp] theorem State.raise_seq (r : Fault) : (s.raise r).seq = s.seq := rfl
@[simp] theorem State.raise_flt (r : Fault) : (s.raise r).flt = some r := rfl
@[simp] theorem State.raise_abn (r : Fault) : (s.raise r).abn = s.abn := rfl
@[simp] theorem State.raise_trace (r : Fault) : (s.raise r).trace = s.trace := rfl
@[simp] theorem State.raise_out (r : Fault) : (s.raise r).out = s.out := rfl
@[simp] theorem State.raise_schedule (r : Fault) : (s.raise r).schedule = s.schedule := rfl

/-! ### `writeBRR` -/

@[simp] theorem State.writeBRR_brr (v : Byte) : (s.writeBRR v).brr = v := rfl
@[simp] theorem State.writeBRR_cr (v : Byte) : (s.writeBRR v).cr = s.cr := rfl
@[simp] theorem State.writeBRR_srCode (v : Byte) : (s.writeBRR v).srCode = s.srCode := rfl
@[simp] theorem State.writeBRR_dr (v : Byte) : (s.writeBRR v).dr = s.dr := rfl
@[simp] theorem State.writeBRR_oar (v : Byte) : (s.writeBRR v).oar = s.oar := rfl
@[simp] theorem State.writeBRR_fs (v : Byte) : (s.writeBRR v).fs = s.fs := rfl
@[simp] theorem State.writeBRR_dir (v : Byte) : (s.writeBRR v).dir = s.dir := rfl
@[simp] theorem State.writeBRR_pend (v : Byte) : (s.writeBRR v).pend = s.pend := rfl
@[simp] theorem State.writeBRR_seq (v : Byte) : (s.writeBRR v).seq = s.seq := rfl
@[simp] theorem State.writeBRR_flt (v : Byte) : (s.writeBRR v).flt = s.flt := rfl
@[simp] theorem State.writeBRR_abn (v : Byte) : (s.writeBRR v).abn = s.abn := rfl
@[simp] theorem State.writeBRR_trace (v : Byte) : (s.writeBRR v).trace = s.trace := rfl
@[simp] theorem State.writeBRR_out (v : Byte) : (s.writeBRR v).out = s.out := rfl
@[simp] theorem State.writeBRR_schedule (v : Byte) : (s.writeBRR v).schedule = s.schedule := rfl

/-! ### `writeOAR` -/

@[simp] theorem State.writeOAR_brr (v : Byte) : (s.writeOAR v).brr = s.brr := rfl
@[simp] theorem State.writeOAR_cr (v : Byte) : (s.writeOAR v).cr = s.cr := rfl
@[simp] theorem State.writeOAR_srCode (v : Byte) : (s.writeOAR v).srCode = s.srCode := rfl
@[simp] theorem State.writeOAR_dr (v : Byte) : (s.writeOAR v).dr = s.dr := rfl
@[simp] theorem State.writeOAR_oar (v : Byte) : (s.writeOAR v).oar = v := rfl
@[simp] theorem State.writeOAR_fs (v : Byte) : (s.writeOAR v).fs = s.fs := rfl
@[simp] theorem State.writeOAR_dir (v : Byte) : (s.writeOAR v).dir = s.dir := rfl
@[simp] theorem State.writeOAR_pend (v : Byte) : (s.writeOAR v).pend = s.pend := rfl
@[simp] theorem State.writeOAR_seq (v : Byte) : (s.writeOAR v).seq = s.seq := rfl
@[simp] theorem State.writeOAR_flt (v : Byte) : (s.writeOAR v).flt = s.flt := rfl
@[simp] theorem State.writeOAR_abn (v : Byte) : (s.writeOAR v).abn = s.abn := rfl
@[simp] theorem State.writeOAR_trace (v : Byte) : (s.writeOAR v).trace = s.trace := rfl
@[simp] theorem State.writeOAR_out (v : Byte) : (s.writeOAR v).out = s.out := rfl
@[simp] theorem State.writeOAR_schedule (v : Byte) : (s.writeOAR v).schedule = s.schedule := rfl

/-! ### `writeDR` -/

@[simp] theorem State.writeDR_brr (v : Byte) : (s.writeDR v).brr = s.brr := rfl
@[simp] theorem State.writeDR_cr (v : Byte) : (s.writeDR v).cr = s.cr := rfl
@[simp] theorem State.writeDR_srCode (v : Byte) : (s.writeDR v).srCode = s.srCode := rfl
@[simp] theorem State.writeDR_dr (v : Byte) : (s.writeDR v).dr = v := rfl
@[simp] theorem State.writeDR_oar (v : Byte) : (s.writeDR v).oar = s.oar := rfl
@[simp] theorem State.writeDR_fs (v : Byte) : (s.writeDR v).fs = s.fs := rfl
@[simp] theorem State.writeDR_dir (v : Byte) : (s.writeDR v).dir = s.dir := rfl
@[simp] theorem State.writeDR_pend (v : Byte) : (s.writeDR v).pend = s.pend := rfl
@[simp] theorem State.writeDR_seq (v : Byte) : (s.writeDR v).seq = s.seq := rfl
@[simp] theorem State.writeDR_flt (v : Byte) : (s.writeDR v).flt = s.flt := rfl
@[simp] theorem State.writeDR_abn (v : Byte) : (s.writeDR v).abn = s.abn := rfl
@[simp] theorem State.writeDR_trace (v : Byte) : (s.writeDR v).trace = s.trace := rfl
@[simp] theorem State.writeDR_out (v : Byte) : (s.writeDR v).out = s.out := rfl
@[simp] theorem State.writeDR_schedule (v : Byte) : (s.writeDR v).schedule = s.schedule := rfl

/-! ### `storeControl` -/

@[simp] theorem State.storeControl_brr (v : Byte) : (s.storeControl v).brr = s.brr := rfl
@[simp] theorem State.storeControl_cr (v : Byte) : (s.storeControl v).cr = ⟨s.cr.rdy && !v.getLsbD 7, v.getLsbD 6, v.getLsbD 5, v.getLsbD 2⟩ := rfl
@[simp] theorem State.storeControl_srCode (v : Byte) : (s.storeControl v).srCode = s.srCode := rfl
@[simp] theorem State.storeControl_dr (v : Byte) : (s.storeControl v).dr = s.dr := rfl
@[simp] theorem State.storeControl_oar (v : Byte) : (s.storeControl v).oar = s.oar := rfl
@[simp] theorem State.storeControl_fs (v : Byte) : (s.storeControl v).fs = s.fs := rfl
@[simp] theorem State.storeControl_dir (v : Byte) : (s.storeControl v).dir = s.dir := rfl
@[simp] theorem State.storeControl_pend (v : Byte) : (s.storeControl v).pend = s.pend := rfl
@[simp] theorem State.storeControl_seq (v : Byte) : (s.storeControl v).seq = s.seq := rfl
@[simp] theorem State.storeControl_flt (v : Byte) : (s.storeControl v).flt = s.flt := rfl
@[simp] theorem State.storeControl_abn (v : Byte) : (s.storeControl v).abn = s.abn := rfl
@[simp] theorem State.storeControl_trace (v : Byte) : (s.storeControl v).trace = s.trace := rfl
@[simp] theorem State.storeControl_out (v : Byte) : (s.storeControl v).out = s.out := rfl
@[simp] theorem State.storeControl_schedule (v : Byte) : (s.storeControl v).schedule = s.schedule := rfl

/-! ### `issueStart` -/

@[simp] theorem State.issueStart_brr : s.issueStart.brr = s.brr := rfl
@[simp] theorem State.issueStart_cr : s.issueStart.cr = s.cr := rfl
@[simp] theorem State.issueStart_srCode : s.issueStart.srCode = s.srCode := rfl
@[simp] theorem State.issueStart_dr : s.issueStart.dr = s.dr := rfl
@[simp] theorem State.issueStart_oar : s.issueStart.oar = s.oar := rfl
@[simp] theorem State.issueStart_fs : s.issueStart.fs = s.fs := rfl
@[simp] theorem State.issueStart_dir : s.issueStart.dir = s.dir := rfl
@[simp] theorem State.issueStart_pend : s.issueStart.pend = .start := rfl
@[simp] theorem State.issueStart_seq : s.issueStart.seq = s.seq := rfl
@[simp] theorem State.issueStart_flt : s.issueStart.flt = s.flt := rfl
@[simp] theorem State.issueStart_abn : s.issueStart.abn = s.abn := rfl
@[simp] theorem State.issueStart_trace : s.issueStart.trace = s.trace := rfl
@[simp] theorem State.issueStart_out : s.issueStart.out = s.out := rfl
@[simp] theorem State.issueStart_schedule : s.issueStart.schedule = s.schedule := rfl

/-! ### `issueStop` -/

@[simp] theorem State.issueStop_brr : s.issueStop.brr = s.brr := rfl
@[simp] theorem State.issueStop_cr : s.issueStop.cr = s.cr := rfl
@[simp] theorem State.issueStop_srCode : s.issueStop.srCode = s.srCode := rfl
@[simp] theorem State.issueStop_dr : s.issueStop.dr = s.dr := rfl
@[simp] theorem State.issueStop_oar : s.issueStop.oar = s.oar := rfl
@[simp] theorem State.issueStop_fs : s.issueStop.fs = .stopped := rfl
@[simp] theorem State.issueStop_dir : s.issueStop.dir = s.dir := rfl
@[simp] theorem State.issueStop_pend : s.issueStop.pend = s.pend := rfl
@[simp] theorem State.issueStop_seq : s.issueStop.seq = s.seq := rfl
@[simp] theorem State.issueStop_flt : s.issueStop.flt = s.flt := rfl
@[simp] theorem State.issueStop_abn : s.issueStop.abn = s.abn := rfl
@[simp] theorem State.issueStop_trace : s.issueStop.trace = s.trace := rfl
@[simp] theorem State.issueStop_out : s.issueStop.out = s.out := rfl
@[simp] theorem State.issueStop_schedule : s.issueStop.schedule = s.schedule := rfl

/-! ### `issueTxa` -/

@[simp] theorem State.issueTxa_brr : s.issueTxa.brr = s.brr := rfl
@[simp] theorem State.issueTxa_cr : s.issueTxa.cr = s.cr := rfl
@[simp] theorem State.issueTxa_srCode : s.issueTxa.srCode = s.srCode := rfl
@[simp] theorem State.issueTxa_dr : s.issueTxa.dr = s.dr := rfl
@[simp] theorem State.issueTxa_oar : s.issueTxa.oar = s.oar := rfl
@[simp] theorem State.issueTxa_fs : s.issueTxa.fs = .addressPhase := rfl
@[simp] theorem State.issueTxa_dir : s.issueTxa.dir = s.dir := rfl
@[simp] theorem State.issueTxa_pend : s.issueTxa.pend = .txAddr := rfl
@[simp] theorem State.issueTxa_seq : s.issueTxa.seq = s.seq := rfl
@[simp] theorem State.issueTxa_flt : s.issueTxa.flt = s.flt := rfl
@[simp] theorem State.issueTxa_abn : s.issueTxa.abn = s.abn := rfl
@[simp] theorem State.issueTxa_trace : s.issueTxa.trace = s.trace := rfl
@[simp] theorem State.issueTxa_out : s.issueTxa.out = s.out := rfl
@[simp] theorem State.issueTxa_schedule : s.issueTxa.schedule = s.schedule := rfl

/-! ### `issueTxd` -/

@[simp] theorem State.issueTxd_brr : s.issueTxd.brr = s.brr := rfl
@[simp] theorem State.issueTxd_cr : s.issueTxd.cr = s.cr := rfl
@[simp] theorem State.issueTxd_srCode : s.issueTxd.srCode = s.srCode := rfl
@[simp] theorem State.issueTxd_dr : s.issueTxd.dr = s.dr := rfl
@[simp] theorem State.issueTxd_oar : s.issueTxd.oar = s.oar := rfl
@[simp] theorem State.issueTxd_fs : s.issueTxd.fs = s.fs := rfl
@[simp] theorem State.issueTxd_dir : s.issueTxd.dir = s.dir := rfl
@[simp] theorem State.issueTxd_pend : s.issueTxd.pend = .txData := rfl
@[simp] theorem State.issueTxd_seq : s.issueTxd.seq = s.seq := rfl
@[simp] theorem State.issueTxd_flt : s.issueTxd.flt = s.flt := rfl
@[simp] theorem State.issueTxd_abn : s.issueTxd.abn = s.abn := rfl
@[simp] theorem State.issueTxd_trace : s.issueTxd.trace = s.trace := rfl
@[simp] theorem State.issueTxd_out : s.issueTxd.out = s.out := rfl
@[simp] theorem State.issueTxd_schedule : s.issueTxd.schedule = s.schedule := rfl

/-! ### `issueRx` -/

@[simp] theorem State.issueRx_brr : s.issueRx.brr = s.brr := rfl
@[simp] theorem State.issueRx_cr : s.issueRx.cr = s.cr := rfl
@[simp] theorem State.issueRx_srCode : s.issueRx.srCode = s.srCode := rfl
@[simp] theorem State.issueRx_dr : s.issueRx.dr = s.dr := rfl
@[simp] theorem State.issueRx_oar : s.issueRx.oar = s.oar := rfl
@[simp] theorem State.issueRx_fs : s.issueRx.fs = s.fs := rfl
@[simp] theorem State.issueRx_dir : s.issueRx.dir = s.dir := rfl
@[simp] theorem State.issueRx_pend : s.issueRx.pend = .rx := rfl
@[simp] theorem State.issueRx_seq : s.issueRx.seq = s.seq := rfl
@[simp] theorem State.issueRx_flt : s.issueRx.flt = s.flt := rfl
@[simp] theorem State.issueRx_abn : s.issueRx.abn = s.abn := rfl
@[simp] theorem State.issueRx_trace : s.issueRx.trace = s.trace := rfl
@[simp] theorem State.issueRx_out : s.issueRx.out = s.out := rfl
@[simp] theorem State.issueRx_schedule : s.issueRx.schedule = s.schedule := rfl

/-! ### `emit` -/

@[simp] theorem State.emit_brr (e : BusEvent) : (s.emit e).brr = s.brr := rfl
@[simp] theorem State.emit_cr (e : BusEvent) : (s.emit e).cr = s.cr := rfl
@[simp] theorem State.emit_srCode (e : BusEvent) : (s.emit e).srCode = s.srCode := rfl
@[simp] theorem State.emit_dr (e : BusEvent) : (s.emit e).dr = s.dr := rfl
@[simp] theorem State.emit_oar (e : BusEvent) : (s.emit e).oar = s.oar := rfl
@[simp] theorem State.emit_fs (e : BusEvent) : (s.emit e).fs = s.fs := rfl
@[simp] theorem State.emit_dir (e : BusEvent) : (s.emit e).dir = s.dir := rfl
@[simp] theorem State.emit_pend (e : BusEvent) : (s.emit e).pend = s.pend := rfl
@[simp] theorem State.emit_seq (e : BusEvent) : (s.emit e).seq = s.seq := rfl
@[simp] theorem State.emit_flt (e : BusEvent) : (s.emit e).flt = s.flt := rfl
@[simp] theorem State.emit_abn (e : BusEvent) : (s.emit e).abn = s.abn := rfl
@[simp] theorem State.emit_trace (e : BusEvent) : (s.emit e).trace = s.trace ++ [e] := rfl
@[simp] theorem State.emit_out (e : BusEvent) : (s.emit e).out = s.out := rfl
@[simp] theorem State.emit_schedule (e : BusEvent) : (s.emit e).schedule = s.schedule := rfl

/-! ### `respond` -/

@[simp] theorem State.respond_brr (ok : Bool) (p : List Byte) : (s.respond ok p).brr = s.brr := rfl
@[simp] theorem State.respond_cr (ok : Bool) (p : List Byte) : (s.respond ok p).cr = s.cr := rfl
@[simp] theorem State.respond_srCode (ok : Bool) (p : List Byte) : (s.respond ok p).srCode = s.srCode := rfl
@[simp] theorem State.respond_dr (ok : Bool) (p : List Byte) : (s.respond ok p).dr = s.dr := rfl
@[simp] theorem State.respond_oar (ok : Bool) (p : List Byte) : (s.respond ok p).oar = s.oar := rfl
@[simp] theorem State.respond_fs (ok : Bool) (p : List Byte) : (s.respond ok p).fs = s.fs := rfl
@[simp] theorem State.respond_dir (ok : Bool) (p : List Byte) : (s.respond ok p).dir = s.dir := rfl
@[simp] theorem State.respond_pend (ok : Bool) (p : List Byte) : (s.respond ok p).pend = s.pend := rfl
@[simp] theorem State.respond_seq (ok : Bool) (p : List Byte) : (s.respond ok p).seq = { s.seq with busy := false } := rfl
@[simp] theorem State.respond_flt (ok : Bool) (p : List Byte) : (s.respond ok p).flt = s.flt := rfl
@[simp] theorem State.respond_abn (ok : Bool) (p : List Byte) : (s.respond ok p).abn = s.abn := rfl
@[simp] theorem State.respond_trace (ok : Bool) (p : List Byte) : (s.respond ok p).trace = s.trace := rfl
@[simp] theorem State.respond_out (ok : Bool) (p : List Byte) : (s.respond ok p).out = s.out ++ [⟨ok, p⟩] := rfl
@[simp] theorem State.respond_schedule (ok : Bool) (p : List Byte) : (s.respond ok p).schedule = s.schedule := rfl

/-! ### `advance` -/

@[simp] theorem State.advance_brr : s.advance.brr = s.brr := rfl
@[simp] theorem State.advance_cr : s.advance.cr = s.cr := rfl
@[simp] theorem State.advance_srCode : s.advance.srCode = s.srCode := rfl
@[simp] theorem State.advance_dr : s.advance.dr = s.dr := rfl
@[simp] theorem State.advance_oar : s.advance.oar = s.oar := rfl
@[simp] theorem State.advance_fs : s.advance.fs = s.fs := rfl
@[simp] theorem State.advance_dir : s.advance.dir = s.dir := rfl
@[simp] theorem State.advance_pend : s.advance.pend = s.pend := rfl
@[simp] theorem State.advance_seq : s.advance.seq = { s.seq with mpc := s.seq.mpc + 1 } := rfl
@[simp] theorem State.advance_flt : s.advance.flt = s.flt := rfl
@[simp] theorem State.advance_abn : s.advance.abn = s.abn := rfl
@[simp] theorem State.advance_trace : s.advance.trace = s.trace := rfl
@[simp] theorem State.advance_out : s.advance.out = s.out := rfl
@[simp] theorem State.advance_schedule : s.advance.schedule = s.schedule := rfl

/-! ### `setIdx` -/

@[simp] theorem State.setIdx_brr (n : Nat) : (s.setIdx n).brr = s.brr := rfl
@[simp] theorem State.setIdx_cr (n : Nat) : (s.setIdx n).cr = s.cr := rfl
@[simp] theorem State.setIdx_srCode (n : Nat) : (s.setIdx n).srCode = s.srCode := rfl
@[simp] theorem State.setIdx_dr (n : Nat) : (s.setIdx n).dr = s.dr := rfl
@[simp] theorem State.setIdx_oar (n : Nat) : (s.setIdx n).oar = s.oar := rfl
@[simp] theorem State.setIdx_fs (n : Nat) : (s.setIdx n).fs = s.fs := rfl
@[simp] theorem State.setIdx_dir (n : Nat) : (s.setIdx n).dir = s.dir := rfl
@[simp] theorem State.setIdx_pend (n : Nat) : (s.setIdx n).pend = s.pend := rfl
@[simp] theorem State.setIdx_seq (n : Nat) : (s.setIdx n).seq = { s.seq with idx := n } := rfl
@[simp] theorem State.setIdx_flt (n : Nat) : (s.setIdx n).flt = s.flt := rfl
@[simp] theorem State.setIdx_abn (n : Nat) : (s.setIdx n).abn = s.abn := rfl
@[simp] theorem State.setIdx_trace (n : Nat) : (s.setIdx n).trace = s.trace := rfl
@[simp] theorem State.setIdx_out (n : Nat) : (s.setIdx n).out = s.out := rfl
@[simp] theorem State.setIdx_schedule (n : Nat) : (s.setIdx n).schedule = s.schedule := rfl

/-! ### `setRx` -/

@[simp] theorem State.setRx_brr (l : List Byte) : (s.setRx l).brr = s.brr := rfl
@[simp] theorem State.setRx_cr (l : List Byte) : (s.setRx l).cr = s.cr := rfl
@[simp] theorem State.setRx_srCode (l : List Byte) : (s.setRx l).srCode = s.srCode := rfl
@[simp] theorem State.setRx_dr (l : List Byte) : (s.setRx l).dr = s.dr := rfl
@[simp] theorem State.setRx_oar (l : List Byte) : (s.setRx l).oar = s.oar := rfl
@[simp] theorem State.setRx_fs (l : List Byte) : (s.setRx l).fs = s.fs := rfl
@[simp] theorem State.setRx_dir (l : List Byte) : (s.setRx l).dir = s.dir := rfl
@[simp] theorem State.setRx_pend (l : List Byte) : (s.setRx l).pend = s.pend := rfl
@[simp] theorem State.setRx_seq (l : List Byte) : (s.setRx l).seq = { s.seq with rx := l } := rfl
@[simp] theorem State.setRx_flt (l : List Byte) : (s.setRx l).flt = s.flt := rfl
@[simp] theorem State.setRx_abn (l : List Byte) : (s.setRx l).abn = s.abn := rfl
@[simp] theorem State.setRx_trace (l : List Byte) : (s.setRx l).trace = s.trace := rfl
@[simp] theorem State.setRx_out (l : List Byte) : (s.setRx l).out = s.out := rfl
@[simp] theorem State.setRx_schedule (l : List Byte) : (s.setRx l).schedule = s.schedule := rfl

/-! ### `latchStatus` -/

@[simp] theorem State.latchStatus_brr : s.latchStatus.brr = s.brr := rfl
@[simp] theorem State.latchStatus_cr : s.latchStatus.cr = s.cr := rfl
@[simp] theorem State.latchStatus_srCode : s.latchStatus.srCode = s.srCode := rfl
@[simp] theorem State.latchStatus_dr : s.latchStatus.dr = s.dr := rfl
@[simp] theorem State.latchStatus_oar : s.latchStatus.oar = s.oar := rfl
@[simp] theorem State.latchStatus_fs : s.latchStatus.fs = s.fs := rfl
@[simp] theorem State.latchStatus_dir : s.latchStatus.dir = s.dir := rfl
@[simp] theorem State.latchStatus_pend : s.latchStatus.pend = s.pend := rfl
@[simp] theorem State.latchStatus_seq : s.latchStatus.seq = { s.seq with s := s.readSR &&& 0xF8 } := rfl
@[simp] theorem State.latchStatus_flt : s.latchStatus.flt = s.flt := rfl
@[simp] theorem State.latchStatus_abn : s.latchStatus.abn = s.abn := rfl
@[simp] theorem State.latchStatus_trace : s.latchStatus.trace = s.trace := rfl
@[simp] theorem State.latchStatus_out : s.latchStatus.out = s.out := rfl
@[simp] theorem State.latchStatus_schedule : s.latchStatus.schedule = s.schedule := rfl

/-! ### `setOk` -/

@[simp] theorem State.setOk_brr (b : Bool) : (s.setOk b).brr = s.brr := rfl
@[simp] theorem State.setOk_cr (b : Bool) : (s.setOk b).cr = s.cr := rfl
@[simp] theorem State.setOk_srCode (b : Bool) : (s.setOk b).srCode = s.srCode := rfl
@[simp] theorem State.setOk_dr (b : Bool) : (s.setOk b).dr = s.dr := rfl
@[simp] theorem State.setOk_oar (b : Bool) : (s.setOk b).oar = s.oar := rfl
@[simp] theorem State.setOk_fs (b : Bool) : (s.setOk b).fs = s.fs := rfl
@[simp] theorem State.setOk_dir (b : Bool) : (s.setOk b).dir = s.dir := rfl
@[simp] theorem State.setOk_pend (b : Bool) : (s.setOk b).pend = s.pend := rfl
@[simp] theorem State.setOk_seq (b : Bool) : (s.setOk b).seq = { s.seq with ok := b } := rfl
@[simp] theorem State.setOk_flt (b : Bool) : (s.setOk b).flt = s.flt := rfl
@[simp] theorem State.setOk_abn (b : Bool) : (s.setOk b).abn = s.abn := rfl
@[simp] theorem State.setOk_trace (b : Bool) : (s.setOk b).trace = s.trace := rfl
@[simp] theorem State.setOk_out (b : Bool) : (s.setOk b).out = s.out := rfl
@[simp] theorem State.setOk_schedule (b : Bool) : (s.setOk b).schedule = s.schedule := rfl

/-! ### `foldStatus` -/

@[simp] theorem State.foldStatus_brr : s.foldStatus.brr = s.brr := rfl
@[simp] theorem State.foldStatus_cr : s.foldStatus.cr = s.cr := rfl
@[simp] theorem State.foldStatus_srCode : s.foldStatus.srCode = s.srCode := rfl
@[simp] theorem State.foldStatus_dr : s.foldStatus.dr = s.dr := rfl
@[simp] theorem State.foldStatus_oar : s.foldStatus.oar = s.oar := rfl
@[simp] theorem State.foldStatus_fs : s.foldStatus.fs = s.fs := rfl
@[simp] theorem State.foldStatus_dir : s.foldStatus.dir = s.dir := rfl
@[simp] theorem State.foldStatus_pend : s.foldStatus.pend = s.pend := rfl
@[simp] theorem State.foldStatus_seq : s.foldStatus.seq = { s.seq with s := s.readSR &&& 0xF8, ok := s.seq.ok && ackOk (s.readSR &&& 0xF8) } := rfl
@[simp] theorem State.foldStatus_flt : s.foldStatus.flt = s.flt := rfl
@[simp] theorem State.foldStatus_abn : s.foldStatus.abn = s.abn := rfl
@[simp] theorem State.foldStatus_trace : s.foldStatus.trace = s.trace := rfl
@[simp] theorem State.foldStatus_out : s.foldStatus.out = s.out := rfl
@[simp] theorem State.foldStatus_schedule : s.foldStatus.schedule = s.schedule := rfl

/-! ### `capture` -/

@[simp] theorem State.capture_brr (i : Instr) : (s.capture i).brr = s.brr := rfl
@[simp] theorem State.capture_cr (i : Instr) : (s.capture i).cr = s.cr := rfl
@[simp] theorem State.capture_srCode (i : Instr) : (s.capture i).srCode = s.srCode := rfl
@[simp] theorem State.capture_dr (i : Instr) : (s.capture i).dr = s.dr := rfl
@[simp] theorem State.capture_oar (i : Instr) : (s.capture i).oar = s.oar := rfl
@[simp] theorem State.capture_fs (i : Instr) : (s.capture i).fs = s.fs := rfl
@[simp] theorem State.capture_dir (i : Instr) : (s.capture i).dir = s.dir := rfl
@[simp] theorem State.capture_pend (i : Instr) : (s.capture i).pend = s.pend := rfl
@[simp] theorem State.capture_seq (i : Instr) : (s.capture i).seq = { s.seq with busy := true, cmd := i, mpc := 1, idx := 0, ok := true, rx := [] } := rfl
@[simp] theorem State.capture_flt (i : Instr) : (s.capture i).flt = s.flt := rfl
@[simp] theorem State.capture_abn (i : Instr) : (s.capture i).abn = s.abn := rfl
@[simp] theorem State.capture_trace (i : Instr) : (s.capture i).trace = s.trace := rfl
@[simp] theorem State.capture_out (i : Instr) : (s.capture i).out = s.out := rfl
@[simp] theorem State.capture_schedule (i : Instr) : (s.capture i).schedule = s.schedule := rfl

/-! ### `complete` -/

@[simp] theorem State.complete_brr (c : BitVec 5) (fs : Framing) (ab : Bool) (e : BusEvent) : (s.complete c fs ab e).brr = s.brr := rfl
@[simp] theorem State.complete_cr (c : BitVec 5) (fs : Framing) (ab : Bool) (e : BusEvent) : (s.complete c fs ab e).cr = { s.cr with rdy := true } := rfl
@[simp] theorem State.complete_srCode (c : BitVec 5) (fs : Framing) (ab : Bool) (e : BusEvent) : (s.complete c fs ab e).srCode = c := rfl
@[simp] theorem State.complete_dr (c : BitVec 5) (fs : Framing) (ab : Bool) (e : BusEvent) : (s.complete c fs ab e).dr = s.dr := rfl
@[simp] theorem State.complete_oar (c : BitVec 5) (fs : Framing) (ab : Bool) (e : BusEvent) : (s.complete c fs ab e).oar = s.oar := rfl
@[simp] theorem State.complete_fs (c : BitVec 5) (fs : Framing) (ab : Bool) (e : BusEvent) : (s.complete c fs ab e).fs = fs := rfl
@[simp] theorem State.complete_dir (c : BitVec 5) (fs : Framing) (ab : Bool) (e : BusEvent) : (s.complete c fs ab e).dir = s.dir := rfl
@[simp] theorem State.complete_pend (c : BitVec 5) (fs : Framing) (ab : Bool) (e : BusEvent) : (s.complete c fs ab e).pend = .none := rfl
@[simp] theorem State.complete_seq (c : BitVec 5) (fs : Framing) (ab : Bool) (e : BusEvent) : (s.complete c fs ab e).seq = s.seq := rfl
@[simp] theorem State.complete_flt (c : BitVec 5) (fs : Framing) (ab : Bool) (e : BusEvent) : (s.complete c fs ab e).flt = s.flt := rfl
@[simp] theorem State.complete_abn (c : BitVec 5) (fs : Framing) (ab : Bool) (e : BusEvent) : (s.complete c fs ab e).abn = (s.abn || ab) := rfl
@[simp] theorem State.complete_trace (c : BitVec 5) (fs : Framing) (ab : Bool) (e : BusEvent) : (s.complete c fs ab e).trace = s.trace ++ [e] := rfl
@[simp] theorem State.complete_out (c : BitVec 5) (fs : Framing) (ab : Bool) (e : BusEvent) : (s.complete c fs ab e).out = s.out := rfl
@[simp] theorem State.complete_schedule (c : BitVec 5) (fs : Framing) (ab : Bool) (e : BusEvent) : (s.complete c fs ab e).schedule = s.schedule := rfl

/-! ### `completeStart` -/

@[simp] theorem State.completeStart_brr (r : StartAnswer) : (s.completeStart r).brr = s.brr := rfl
@[simp] theorem State.completeStart_cr (r : StartAnswer) : (s.completeStart r).cr = { s.cr with rdy := true } := rfl
@[simp] theorem State.completeStart_srCode (r : StartAnswer) : (s.completeStart r).srCode = startCode r := rfl
@[simp] theorem State.completeStart_dr (r : StartAnswer) : (s.completeStart r).dr = s.dr := rfl
@[simp] theorem State.completeStart_oar (r : StartAnswer) : (s.completeStart r).oar = s.oar := rfl
@[simp] theorem State.completeStart_fs (r : StartAnswer) : (s.completeStart r).fs = .started := rfl
@[simp] theorem State.completeStart_dir (r : StartAnswer) : (s.completeStart r).dir = s.dir := rfl
@[simp] theorem State.completeStart_pend (r : StartAnswer) : (s.completeStart r).pend = .none := rfl
@[simp] theorem State.completeStart_seq (r : StartAnswer) : (s.completeStart r).seq = s.seq := rfl
@[simp] theorem State.completeStart_flt (r : StartAnswer) : (s.completeStart r).flt = s.flt := rfl
@[simp] theorem State.completeStart_abn (r : StartAnswer) : (s.completeStart r).abn = (s.abn || r.abnormal) := rfl
@[simp] theorem State.completeStart_trace (r : StartAnswer) : (s.completeStart r).trace = s.trace ++ [.start] := rfl
@[simp] theorem State.completeStart_out (r : StartAnswer) : (s.completeStart r).out = s.out := rfl
@[simp] theorem State.completeStart_schedule (r : StartAnswer) : (s.completeStart r).schedule = s.schedule := rfl

/-! ### `completeTxa` -/

@[simp] theorem State.completeTxa_brr (r : TxAnswer) : (s.completeTxa r).brr = s.brr := rfl
@[simp] theorem State.completeTxa_cr (r : TxAnswer) : (s.completeTxa r).cr = { s.cr with rdy := true } := rfl
@[simp] theorem State.completeTxa_srCode (r : TxAnswer) : (s.completeTxa r).srCode = txaCode (dirOf s.dr) r := rfl
@[simp] theorem State.completeTxa_dr (r : TxAnswer) : (s.completeTxa r).dr = s.dr := rfl
@[simp] theorem State.completeTxa_oar (r : TxAnswer) : (s.completeTxa r).oar = s.oar := rfl
@[simp] theorem State.completeTxa_fs (r : TxAnswer) : (s.completeTxa r).fs = .dataPhase 0 := rfl
@[simp] theorem State.completeTxa_dir (r : TxAnswer) : (s.completeTxa r).dir = dirOf s.dr := rfl
@[simp] theorem State.completeTxa_pend (r : TxAnswer) : (s.completeTxa r).pend = .none := rfl
@[simp] theorem State.completeTxa_seq (r : TxAnswer) : (s.completeTxa r).seq = s.seq := rfl
@[simp] theorem State.completeTxa_flt (r : TxAnswer) : (s.completeTxa r).flt = s.flt := rfl
@[simp] theorem State.completeTxa_abn (r : TxAnswer) : (s.completeTxa r).abn = (s.abn || r.abnormal) := rfl
@[simp] theorem State.completeTxa_trace (r : TxAnswer) : (s.completeTxa r).trace = s.trace ++ [.tx .addr s.dr r] := rfl
@[simp] theorem State.completeTxa_out (r : TxAnswer) : (s.completeTxa r).out = s.out := rfl
@[simp] theorem State.completeTxa_schedule (r : TxAnswer) : (s.completeTxa r).schedule = s.schedule := rfl

/-! ### `completeTxd` -/

@[simp] theorem State.completeTxd_brr (k : Nat) (r : TxAnswer) : (s.completeTxd k r).brr = s.brr := rfl
@[simp] theorem State.completeTxd_cr (k : Nat) (r : TxAnswer) : (s.completeTxd k r).cr = { s.cr with rdy := true } := rfl
@[simp] theorem State.completeTxd_srCode (k : Nat) (r : TxAnswer) : (s.completeTxd k r).srCode = txdCode r := rfl
@[simp] theorem State.completeTxd_dr (k : Nat) (r : TxAnswer) : (s.completeTxd k r).dr = s.dr := rfl
@[simp] theorem State.completeTxd_oar (k : Nat) (r : TxAnswer) : (s.completeTxd k r).oar = s.oar := rfl
@[simp] theorem State.completeTxd_fs (k : Nat) (r : TxAnswer) : (s.completeTxd k r).fs = .dataPhase (k + 1) := rfl
@[simp] theorem State.completeTxd_dir (k : Nat) (r : TxAnswer) : (s.completeTxd k r).dir = s.dir := rfl
@[simp] theorem State.completeTxd_pend (k : Nat) (r : TxAnswer) : (s.completeTxd k r).pend = .none := rfl
@[simp] theorem State.completeTxd_seq (k : Nat) (r : TxAnswer) : (s.completeTxd k r).seq = s.seq := rfl
@[simp] theorem State.completeTxd_flt (k : Nat) (r : TxAnswer) : (s.completeTxd k r).flt = s.flt := rfl
@[simp] theorem State.completeTxd_abn (k : Nat) (r : TxAnswer) : (s.completeTxd k r).abn = (s.abn || r.abnormal) := rfl
@[simp] theorem State.completeTxd_trace (k : Nat) (r : TxAnswer) : (s.completeTxd k r).trace = s.trace ++ [.tx .data s.dr r] := rfl
@[simp] theorem State.completeTxd_out (k : Nat) (r : TxAnswer) : (s.completeTxd k r).out = s.out := rfl
@[simp] theorem State.completeTxd_schedule (k : Nat) (r : TxAnswer) : (s.completeTxd k r).schedule = s.schedule := rfl

/-! ### `completeRx` -/

@[simp] theorem State.completeRx_brr (k : Nat) (o : RxOutcome) (b : Byte) : (s.completeRx k o b).brr = s.brr := rfl
@[simp] theorem State.completeRx_cr (k : Nat) (o : RxOutcome) (b : Byte) : (s.completeRx k o b).cr = { s.cr with rdy := true } := rfl
@[simp] theorem State.completeRx_srCode (k : Nat) (o : RxOutcome) (b : Byte) : (s.completeRx k o b).srCode = rxCode s.cr.acken o := rfl
@[simp] theorem State.completeRx_dr (k : Nat) (o : RxOutcome) (b : Byte) : (s.completeRx k o b).dr = b := rfl
@[simp] theorem State.completeRx_oar (k : Nat) (o : RxOutcome) (b : Byte) : (s.completeRx k o b).oar = s.oar := rfl
@[simp] theorem State.completeRx_fs (k : Nat) (o : RxOutcome) (b : Byte) : (s.completeRx k o b).fs = .dataPhase (k + 1) := rfl
@[simp] theorem State.completeRx_dir (k : Nat) (o : RxOutcome) (b : Byte) : (s.completeRx k o b).dir = s.dir := rfl
@[simp] theorem State.completeRx_pend (k : Nat) (o : RxOutcome) (b : Byte) : (s.completeRx k o b).pend = .none := rfl
@[simp] theorem State.completeRx_seq (k : Nat) (o : RxOutcome) (b : Byte) : (s.completeRx k o b).seq = s.seq := rfl
@[simp] theorem State.completeRx_flt (k : Nat) (o : RxOutcome) (b : Byte) : (s.completeRx k o b).flt = s.flt := rfl
@[simp] theorem State.completeRx_abn (k : Nat) (o : RxOutcome) (b : Byte) : (s.completeRx k o b).abn = (s.abn || o.abnormal) := rfl
@[simp] theorem State.completeRx_trace (k : Nat) (o : RxOutcome) (b : Byte) : (s.completeRx k o b).trace = s.trace ++ [.rx b s.cr.acken o] := rfl
@[simp] theorem State.completeRx_out (k : Nat) (o : RxOutcome) (b : Byte) : (s.completeRx k o b).out = s.out := rfl
@[simp] theorem State.completeRx_schedule (k : Nat) (o : RxOutcome) (b : Byte) : (s.completeRx k o b).schedule = s.schedule := rfl

/-! ### `completeStop` -/

@[simp] theorem State.completeStop_brr : s.completeStop.brr = s.brr := rfl
@[simp] theorem State.completeStop_cr : s.completeStop.cr = s.cr := rfl
@[simp] theorem State.completeStop_srCode : s.completeStop.srCode = noInfo := rfl
@[simp] theorem State.completeStop_dr : s.completeStop.dr = s.dr := rfl
@[simp] theorem State.completeStop_oar : s.completeStop.oar = s.oar := rfl
@[simp] theorem State.completeStop_fs : s.completeStop.fs = .idle := rfl
@[simp] theorem State.completeStop_dir : s.completeStop.dir = s.dir := rfl
@[simp] theorem State.completeStop_pend : s.completeStop.pend = s.pend := rfl
@[simp] theorem State.completeStop_seq : s.completeStop.seq = s.seq := rfl
@[simp] theorem State.completeStop_flt : s.completeStop.flt = s.flt := rfl
@[simp] theorem State.completeStop_abn : s.completeStop.abn = s.abn := rfl
@[simp] theorem State.completeStop_trace : s.completeStop.trace = s.trace ++ [.stop] := rfl
@[simp] theorem State.completeStop_out : s.completeStop.out = s.out := rfl
@[simp] theorem State.completeStop_schedule : s.completeStop.schedule = s.schedule := rfl

end Sys2Proof.Machine
end

