-- ==== Sys2Proof/Laws/Ops.lean ====
section
/-! SUPPORT. One lemma per shared operation of the machine that says all it can do, which later proofs cite instead of
unfolding the operation. -/

namespace Sys2Proof.Machine

open Sys2Proof

variable {s t : State}

/-! ### Outcomes -/

@[simp] theorem settle_ok (s t : State) : settle s (.ok t) = .next t := rfl

@[simp] theorem settle_error (s : State) (r : Fault) : settle s (.error r) = .next (s.raise r) := rfl

theorem settle_next {e : Except Fault State} (h : settle s e = .next t) :
    e = .ok t ∨ ∃ r, e = .error r ∧ t = s.raise r := by
  cases e with
  | ok a => exact .inl (by simpa [settle] using h)
  | error r => exact .inr ⟨r, rfl, by simpa [settle] using h.symm⟩

@[simp] theorem whileLive_live (h : s.flt = none) (o) : whileLive s o = o := by simp [whileLive, h]

@[simp] theorem whileLive_faulted {r : Fault} (h : s.flt = some r) (o) : whileLive s o = .fault r := by
  simp [whileLive, h]

theorem whileLive_next {o} (h : whileLive s o = .next t) : s.flt = none ∧ o = .next t := by
  cases hf : s.flt with
  | none => exact ⟨rfl, by simpa [hf] using h⟩
  | some r => simp [hf] at h

/-! ### `x[CR] <- v` (R180) -/

/-- Every way a `CR` write can store. -/
theorem State.writeCR_cases {v : Byte} (h : s.writeCR v = .ok t) :
    v.getLsbD 2 = true ∧
      ((v.getLsbD 7 = false ∧ t = s.storeControl v) ∨
        (v.getLsbD 7 = true ∧
          ((s.fs = .idle ∧ t = (s.storeControl v).issueStart) ∨
            ((s.fs = .started ∨ ∃ k, s.fs = .dataPhase k) ∧ t = (s.storeControl v).issueStop) ∨
            (s.fs = .started ∧ t = (s.storeControl v).issueTxa) ∨
            (s.dir = .w ∧ (∃ k, s.fs = .dataPhase k) ∧ t = (s.storeControl v).issueTxd) ∨
            (s.dir = .r ∧ (∃ k, s.fs = .dataPhase k) ∧ t = (s.storeControl v).issueRx)))) := by
  unfold State.writeCR at h
  split at h
  · cases h
  · rename_i h0
    have h2 : v.getLsbD 2 = true := by
      revert h0; cases v.getLsbD 2 <;> simp
    refine ⟨h2, ?_⟩
    split at h
    · rename_i h7
      split at h
      · cases h
      · exact .inl ⟨by simpa using h7, by cases h; rfl⟩
    · rename_i h7
      refine .inr ⟨by simpa using h7, ?_⟩
      split at h <;> first | cases h; simp_all | cases h

/-- A refused `CR` write raises `IllegalControl` with the value and the framing. -/
theorem State.writeCR_error {v : Byte} {r : Fault} (h : s.writeCR v = .error r) : r = .illegalControl v s.fs s.dir := by
  unfold State.writeCR at h
  split at h
  · cases h; rfl
  · split at h
    · split at h <;> cases h
      rfl
    · split at h <;> cases h
      rfl

/-- A byte is its eight bits. -/
theorem byte_of_bits : ∀ v : Byte, v = BitVec.ofBool (v.getLsbD 7) ++ BitVec.ofBool (v.getLsbD 6) ++
    BitVec.ofBool (v.getLsbD 5) ++ BitVec.ofBool (v.getLsbD 4) ++ BitVec.ofBool (v.getLsbD 3) ++
    BitVec.ofBool (v.getLsbD 2) ++ BitVec.ofBool (v.getLsbD 1) ++ BitVec.ofBool (v.getLsbD 0) := by decide

/-- Only the six values of R99 are ever accepted. -/
theorem State.writeCR_value {v : Byte} (h : s.writeCR v = .ok t) : v ∈ [0x04, 0x44, 0xA4, 0x94, 0x84, 0xC4] := by
  have e := byte_of_bits v
  unfold State.writeCR at h
  generalize v.getLsbD 0 = b0, v.getLsbD 1 = b1, v.getLsbD 2 = b2, v.getLsbD 3 = b3, v.getLsbD 4 = b4,
    v.getLsbD 5 = b5, v.getLsbD 6 = b6, v.getLsbD 7 = b7 at h e
  subst e
  cases b2 <;> cases b3 <;> cases b1 <;> cases b0 <;> first | cases h | skip
  cases b7 <;> cases b5 <;> cases b4 <;> cases b6 <;> first | decide | simp at h

/-- A value that decodes to no action is refused. -/
theorem State.writeCR_undecoded {v : Byte} {e : DecodeError} (h : decodeControl v s.fs s.dir = .error e) :
    s.writeCR v = .error (.illegalControl v s.fs s.dir) := by
  cases hw : s.writeCR v with
  | error r => rw [State.writeCR_error hw]
  | ok t =>
    have hv := State.writeCR_value hw
    simp only [List.mem_cons, List.not_mem_nil, or_false] at hv
    obtain rfl | rfl | rfl | rfl | rfl | rfl := hv <;> simp [decodeControl] at h
    split at h <;> cases h

/-- `ENABLE` (R194). -/
theorem State.writeCR_enable (s : State) : s.writeCR 0x04 = .ok { s with cr := ⟨s.cr.rdy, false, false, true⟩ } := by
  simp [State.writeCR, State.storeControl]

/-- `ENABLE_ACK` (R195). -/
theorem State.writeCR_enableAck (s : State) :
    s.writeCR 0x44 = .ok { s with cr := ⟨s.cr.rdy, true, false, true⟩ } := by
  simp [State.writeCR, State.storeControl]

/-- `START` (R181). -/
theorem State.writeCR_start (h : s.fs = .idle) :
    s.writeCR 0xA4 = .ok { s with cr := ⟨false, false, true, true⟩, pend := .start } := by
  simp [State.writeCR, h, State.storeControl, State.issueStart]

/-- `STOP` (R189). -/
theorem State.writeCR_stop (h : s.fs = .started ∨ ∃ k, s.fs = .dataPhase k) :
    s.writeCR 0x94 = .ok { s with cr := ⟨false, false, false, true⟩, fs := .stopped } := by
  obtain h | ⟨k, h⟩ := h <;> simp [State.writeCR, h, State.storeControl, State.issueStop]

/-- `TXA` (R183). -/
theorem State.writeCR_txa (h : s.fs = .started) :
    s.writeCR 0x84 = .ok { s with cr := ⟨false, false, false, true⟩, pend := .txAddr, fs := .addressPhase } := by
  simp [State.writeCR, h, State.storeControl, State.issueTxa]

/-- `TXD` (R185). -/
theorem State.writeCR_txd {k : Nat} (h : s.fs = .dataPhase k) (hd : s.dir = .w) :
    s.writeCR 0x84 = .ok { s with cr := ⟨false, false, false, true⟩, pend := .txData } := by
  simp [State.writeCR, h, hd, State.storeControl, State.issueTxd]

/-- `RXN` (R187). -/
theorem State.writeCR_rxn {k : Nat} (h : s.fs = .dataPhase k) (hd : s.dir = .r) :
    s.writeCR 0x84 = .ok { s with cr := ⟨false, false, false, true⟩, pend := .rx } := by
  simp [State.writeCR, h, hd, State.storeControl, State.issueRx]

/-- `RXA` (R187). -/
theorem State.writeCR_rxa {k : Nat} (h : s.fs = .dataPhase k) (hd : s.dir = .r) :
    s.writeCR 0xC4 = .ok { s with cr := ⟨false, true, false, true⟩, pend := .rx } := by
  simp [State.writeCR, h, hd, State.storeControl, State.issueRx]

/-- An accepted `0xA4`. -/
theorem State.writeCR_start_ok (h : s.writeCR 0xA4 = .ok t) :
    s.fs = .idle ∧ t = { s with cr := ⟨false, false, true, true⟩, pend := .start } := by
  cases hfs : s.fs <;> simp [State.writeCR, hfs] at h
  simp [← h, hfs, State.storeControl, State.issueStart]

/-- An accepted `0x94`. -/
theorem State.writeCR_stop_ok (h : s.writeCR 0x94 = .ok t) :
    (s.fs = .started ∨ ∃ k, s.fs = .dataPhase k) ∧
      t = { s with cr := ⟨false, false, false, true⟩, fs := .stopped } := by
  cases hfs : s.fs <;> simp [State.writeCR, hfs] at h
  all_goals exact ⟨by simp, by rw [← h]; simp [State.storeControl, State.issueStop]⟩

/-- An accepted `0x84`. -/
theorem State.writeCR_transfer_ok (h : s.writeCR 0x84 = .ok t) :
    (s.fs = .started ∧
      t = { s with cr := ⟨false, false, false, true⟩, pend := .txAddr, fs := .addressPhase }) ∨
    (s.dir = .w ∧ (∃ k, s.fs = .dataPhase k) ∧
      t = { s with cr := ⟨false, false, false, true⟩, pend := .txData }) ∨
    (s.dir = .r ∧ (∃ k, s.fs = .dataPhase k) ∧ t = { s with cr := ⟨false, false, false, true⟩, pend := .rx }) := by
  cases hfs : s.fs <;> cases hd : s.dir <;> simp [State.writeCR, hfs, hd] at h <;>
    simp [← h, hfs, hd, State.storeControl, State.issueTxa, State.issueTxd, State.issueRx]

/-- An accepted `0xC4`. -/
theorem State.writeCR_rxa_ok (h : s.writeCR 0xC4 = .ok t) :
    s.dir = .r ∧ (∃ k, s.fs = .dataPhase k) ∧ t = { s with cr := ⟨false, true, false, true⟩, pend := .rx } := by
  cases hfs : s.fs <;> cases hd : s.dir <;> simp [State.writeCR, hfs, hd] at h
  simp [← h, hfs, hd, State.storeControl, State.issueRx]

/-- A `CR` write touches `CR`, `FS` and `PEND` only, sets `EN`, and clears `RDY` when bit 7 is set. -/
theorem State.writeCR_frame {v : Byte} (h : s.writeCR v = .ok t) :
    t = { s with cr := t.cr, fs := t.fs, pend := t.pend } ∧ t.cr.en = true ∧
      t.cr.rdy = (s.cr.rdy && !v.getLsbD 7) := by
  obtain ⟨h2, ⟨-, rfl⟩ | ⟨-, h⟩⟩ := State.writeCR_cases h
  · exact ⟨rfl, h2, rfl⟩
  · obtain ⟨-, rfl⟩ | ⟨-, rfl⟩ | ⟨-, rfl⟩ | ⟨-, -, rfl⟩ | ⟨-, -, rfl⟩ := h <;> exact ⟨rfl, h2, rfl⟩

theorem State.writeCR_seq {v : Byte} (h : s.writeCR v = .ok t) : t.seq = s.seq := by
  rw [(State.writeCR_frame h).1]

/-- A `CR` write does not look at the schedule, and leaves it. -/
theorem State.writeCR_schedule (s : State) (v : Byte) (sch : List Turn) :
    ({ s with schedule := sch } : State).writeCR v = (s.writeCR v).map fun t => { t with schedule := sch } := by
  simp only [State.writeCR]
  split
  · rfl
  · split
    · split <;> rfl
    · split <;> rfl

/-! ### Bytes and codes -/

@[simp] theorem dirOf_sla (a : Addr7) (d : Dir) : dirOf (sla a d) = d := by
  revert a; cases d <;> decide

@[simp] theorem ackOk_txaCode (d : Dir) (r : TxAnswer) :
    ackOk (txaCode d r ++ 0#3 &&& 0xF8) = decide (r = .ack) := by
  cases d <;> cases r <;> decide

@[simp] theorem ackOk_txdCode (r : TxAnswer) : ackOk (txdCode r ++ 0#3 &&& 0xF8) = decide (r = .ack) := by
  cases r <;> decide

/-! ### The engine -/

/-- Every way an offered answer can act. -/
theorem State.takeAnswer_cases (s : State) (a : Answer) :
    (s.takeAnswer a = s) ∨
      (∃ r, s.pend = .start ∧ a = .start r ∧ s.takeAnswer a = s.completeStart r) ∨
      (∃ r, s.pend = .txAddr ∧ a = .tx r ∧ s.takeAnswer a = s.completeTxa r) ∨
      (∃ r k, s.pend = .txData ∧ a = .tx r ∧ s.fs = .dataPhase k ∧ s.takeAnswer a = s.completeTxd k r) ∨
      (∃ o b k, s.pend = .rx ∧ a = .rx o b ∧ s.fs = .dataPhase k ∧ s.takeAnswer a = s.completeRx k o b) := by
  unfold State.takeAnswer
  split <;> simp_all

theorem State.takeStopCompletion_cases (s : State) :
    (s.takeStopCompletion = s ∧ s.fs ≠ .stopped) ∨ (s.fs = .stopped ∧ s.takeStopCompletion = s.completeStop) := by
  unfold State.takeStopCompletion
  cases h : s.fs <;> simp [Framing.isStopped]

/-! ### Commands (R140) -/

/-- The meaning of a command, whichever it is. -/
theorem exec_command {i : Instr} (hi : i.isCommand = true) (s : State) : exec i s = runCommand i (program i) s := by
  cases i <;> first | rfl | cases hi

/-- The meaning of a control-register action, whichever it is. -/
theorem exec_control {i : Instr} {v : Byte} (he : encode i = .control v) (s : State) : exec i s = runControl v s := by
  cases i <;> simp only [encode, reduceCtorEq, InstrWord.control.injEq] at he <;> subst he <;> rfl

/-- Every way a command can step. -/
theorem runCommand_next {i : Instr} {prog : List MicroStep} (h : runCommand i prog s = .next t) :
    s.flt = none ∧
      ((s.seq.busy = true ∧ s.seq.cmd = i ∧ settle s (runMicro prog s) = .next t) ∨
        (s.seq.busy = true ∧ s.seq.cmd ≠ i ∧ t = s.raise (.reentrancy (encode i))) ∨
        (s.seq.busy = false ∧ ∃ r, admission i s = some r ∧ t = s.raise r) ∨
        (s.seq.busy = false ∧ admission i s = none ∧ t = s.capture i)) := by
  obtain ⟨hf, h⟩ := whileLive_next h
  refine ⟨hf, ?_⟩
  split at h
  · split at h
    · simp_all
    · simp_all
  · split at h
    · simp_all
    · simp_all

/-- Every way a control-register action can step. -/
theorem runControl_next {v : Byte} (h : runControl v s = .next t) :
    s.flt = none ∧ (t = s.raise (.illegalControl v s.fs s.dir) ∨ s.writeCR v = .ok t) := by
  obtain ⟨hf, h⟩ := whileLive_next h
  refine ⟨hf, ?_⟩
  obtain h | ⟨r, hr, rfl⟩ := settle_next h
  · exact .inr h
  · rw [State.writeCR_error hr]; exact .inl rfl

theorem exec_control_next {i : Instr} (hi : i.isCommand = false) (h : exec i s = .next t) :
    (∃ r, t = s.raise r) ∨ ∃ v, s.writeCR v = .ok t := by
  cases i <;> simp [Instr.isCommand] at hi <;>
    (obtain ⟨-, h | h⟩ := runControl_next h; exacts [.inl ⟨_, h⟩, .inr ⟨_, h⟩])

/-- A closed guard, or no micro-step, changes nothing; otherwise the micro-step acts. -/
theorem runMicro_cases (prog : List MicroStep) (s : State) :
    runMicro prog s = .ok s ∨
      ∃ m, microAt prog s.seq.mpc = some m ∧ m.guard.isOpen s = true ∧ runMicro prog s = m.act s := by
  unfold runMicro
  split
  · split
    · exact .inr ⟨_, ‹_›, ‹_›, rfl⟩
    · exact .inl rfl
  · exact .inl rfl

/-- A micro-step with an open guard acts. -/
theorem exec_micro {i : Instr} {m : MicroStep} (hi : i.isCommand = true) (hf : s.flt = none) (hb : s.seq.busy = true)
    (hc : s.seq.cmd = i) (hm : microAt (program i) s.seq.mpc = some m) (hg : m.guard.isOpen s = true) :
    exec i s = settle s (m.act s) := by
  rw [exec_command hi, runCommand, whileLive_live hf, if_pos hb, if_pos hc]
  simp [runMicro, hm, hg]

/-- A micro-step with a closed guard holds. -/
theorem exec_hold {i : Instr} {m : MicroStep} (hi : i.isCommand = true) (hf : s.flt = none) (hb : s.seq.busy = true)
    (hc : s.seq.cmd = i) (hm : microAt (program i) s.seq.mpc = some m) (hg : m.guard.isOpen s = false) :
    exec i s = .next s := by
  rw [exec_command hi, runCommand, whileLive_live hf, if_pos hb, if_pos hc]
  simp [runMicro, hm, hg]

/-- The opening step of every command that opens a transaction. -/
theorem exec_openStep {i : Instr} (hi : i.isCommand = true) (ho : microAt (program i) 1 = some openStep)
    (hf : s.flt = none) (hb : s.seq.busy = true) (hc : s.seq.cmd = i) (hm : s.seq.mpc = 1) (hfs : s.fs = .idle) :
    exec i s = .next { s with
      cr := ⟨false, false, true, true⟩, pend := .start, seq := { s.seq with mpc := 2 } } := by
  rw [exec_micro hi hf hb hc (by rw [hm]; exact ho) (by simp [openStep, Guard.isOpen, hfs, Framing.isIdle])]
  simp only [openStep, State.trigger, State.writeCR_start hfs]
  simp [Except.map, State.advance, hm]

/-- The address step of the composed commands. -/
theorem exec_addressStep {i : Instr} {a : Addr7} {d : Dir} (hi : i.isCommand = true)
    (ho : microAt (program i) 2 = some (addressStep a d)) (hf : s.flt = none) (hb : s.seq.busy = true)
    (hc : s.seq.cmd = i) (hm : s.seq.mpc = 2) (hr : s.cr.rdy = true) (hfs : s.fs = .started) :
    exec i s = .next { s with
      dr := sla a d, cr := ⟨false, false, false, true⟩, pend := .txAddr, fs := .addressPhase
      seq := { s.seq with mpc := 3 } } := by
  rw [exec_micro hi hf hb hc (by rw [hm]; exact ho) (by simpa [addressStep, Guard.isOpen] using hr)]
  simp only [addressStep, State.transmit, State.trigger, State.writeCR_txa (s := s.writeDR (sla a d)) hfs]
  simp [Except.map, State.advance, hm, State.writeDR]

end Sys2Proof.Machine
end

