-- ==== Sys2Proof/Laws/PerInstr.lean ====
section
/-! SUPPORT. Statements made of every instruction as syntax, one lemma per constructor. -/

namespace Sys2Proof.Laws.WordShape

open Sys2Proof

/-- The shape of an instruction's word: a command's word is a byte string that begins with an opcode number 1 to 11 and
has the length R96 gives it; a control-register action's word is one of the six values of R99. -/
def Statement (i : Instr) : Prop :=
  i.wellFormed = true →
    (i.isCommand = true ∧ ∃ op rest, encode i = .command (op :: rest) ∧ 1 ≤ op.toNat ∧ op.toNat ≤ 11 ∧
      commandLength op ((op :: rest).getD 2 0) = some (op :: rest).length) ∨
    (i.isCommand = false ∧ ∃ v, encode i = .control v ∧ v ∈ [0x04, 0x44, 0xA4, 0x94, 0x84, 0xC4])

theorem initializeBus (c f : Nat) : Statement (.initializeBus c f) :=
  fun _ => .inl ⟨rfl, _, _, rfl, by decide, by decide, rfl⟩

theorem sendStart : Statement .sendStart :=
  fun _ => .inl ⟨rfl, _, _, rfl, by decide, by decide, rfl⟩

theorem sendStop : Statement .sendStop :=
  fun _ => .inl ⟨rfl, _, _, rfl, by decide, by decide, rfl⟩

theorem writeByte (b : Byte) : Statement (.writeByte b) :=
  fun _ => .inl ⟨rfl, _, _, rfl, by decide, by decide, rfl⟩

theorem readByteAck : Statement .readByteAck :=
  fun _ => .inl ⟨rfl, _, _, rfl, by decide, by decide, rfl⟩

theorem readByteNoAck : Statement .readByteNoAck :=
  fun _ => .inl ⟨rfl, _, _, rfl, by decide, by decide, rfl⟩

theorem registerOwnAddress (a : Addr7) : Statement (.registerOwnAddress a) :=
  fun _ => .inl ⟨rfl, _, _, rfl, by decide, by decide, rfl⟩

theorem writeByteTo (a : Addr7) (d : Byte) : Statement (.writeByteTo a d) :=
  fun _ => .inl ⟨rfl, _, _, rfl, by decide, by decide, rfl⟩

theorem readByteFrom (a : Addr7) : Statement (.readByteFrom a) :=
  fun _ => .inl ⟨rfl, _, _, rfl, by decide, by decide, rfl⟩

theorem writeBuffer (a : Addr7) (bytes : List Byte) : Statement (.writeBuffer a bytes) :=
  fun h => by
  have hl : bytes.length < 256 := by simpa [Instr.wellFormed, Config.lenBits] using h
  exact .inl ⟨rfl, _, _, rfl, by decide, by decide, by simp [commandLength, Nat.mod_eq_of_lt hl]; omega⟩

theorem readBuffer (a : Addr7) (n : Nat) : Statement (.readBuffer a n) :=
  fun _ => .inl ⟨rfl, _, _, rfl, by decide, by decide, rfl⟩

theorem enable : Statement .enable :=
  fun _ => .inr ⟨rfl, _, rfl, by decide⟩

theorem enableAck : Statement .enableAck :=
  fun _ => .inr ⟨rfl, _, rfl, by decide⟩

theorem start : Statement .start :=
  fun _ => .inr ⟨rfl, _, rfl, by decide⟩

theorem stop : Statement .stop :=
  fun _ => .inr ⟨rfl, _, rfl, by decide⟩

theorem txa : Statement .txa :=
  fun _ => .inr ⟨rfl, _, rfl, by decide⟩

theorem txd : Statement .txd :=
  fun _ => .inr ⟨rfl, _, rfl, by decide⟩

theorem rxn : Statement .rxn :=
  fun _ => .inr ⟨rfl, _, rfl, by decide⟩

theorem rxa : Statement .rxa :=
  fun _ => .inr ⟨rfl, _, rfl, by decide⟩

end Sys2Proof.Laws.WordShape
end

