-- ==== Sys2Proof/Laws/Step.lean ====
section
/-! SUPPORT. What one micro-step of a command can do, and what one step of the machine can do: the two inversion lemmas
every invariant proof starts from. -/

namespace Sys2Proof.Machine

open Sys2Proof

variable {s t : State}

/-- Everything a turn of the executing command can do short of a fault. In every case but `hold` the guard of the
micro-step was open. -/
inductive CommandMove (s : State) : State → Prop
  /-- The guard is closed, or the command has no micro-step there. -/
  | hold : CommandMove s s
  /-- The last await of a primitive: respond. -/
  | respond (sq : Seq) (ok : Bool) (payload : List Byte) (cmd : sq.cmd = s.seq.cmd) (busy : sq.busy = false)
      (ready : s.cr.rdy = true) :
      CommandMove s { s with seq := sq, out := s.out ++ [⟨ok, payload⟩] }
  /-- A configuration command: registers written, respond. -/
  | configure (brr oar : Byte) (ack : Bool) (sq : Seq) (cmd : sq.cmd = s.seq.cmd) (busy : sq.busy = false)
      (guard : s.currentGuard = some .always)
      (which : (∃ c f d, s.seq.cmd = .initializeBus c f ∧ divisor c f = some d ∧ brr = BitVec.ofNat 8 d ∧ oar = s.oar) ∨
        ∃ a, s.seq.cmd = .registerOwnAddress a ∧ brr = s.brr ∧ oar = ownAddressByte a) :
      CommandMove s { s with
        brr := brr, oar := oar, cr := ⟨s.cr.rdy, ack, false, true⟩, seq := sq, out := s.out ++ [⟨true, []⟩] }
  /-- The closing step: STOP, respond. -/
  | stop (sq : Seq) (ok : Bool) (payload : List Byte) (cmd : sq.cmd = s.seq.cmd) (busy : sq.busy = false)
      (guard : ∃ g, s.currentGuard = some g ∧ g.isOpen s = true)
      (framing : s.fs = .started ∨ ∃ k, s.fs = .dataPhase k) :
      CommandMove s { s with
        cr := ⟨false, false, false, true⟩, fs := .stopped, seq := sq, out := s.out ++ [⟨ok, payload⟩] }
  /-- A trigger; the next micro-step awaits it. -/
  | trigger (dr : Byte) (acken sta : Bool) (pend : Pending) (fs : Framing) (sq : Seq) (cmd : sq.cmd = s.seq.cmd)
      (busy : sq.busy = s.seq.busy) (guard : ∃ g, s.currentGuard = some g ∧ g.isOpen s = true)
      (next : (microAt (program sq.cmd) sq.mpc).map MicroStep.guard = some .awaitRdy)
      (which : (pend = .start ∧ s.fs = .idle ∧ fs = s.fs ∧ dr = s.dr) ∨
        (pend = .txAddr ∧ s.fs = .started ∧ fs = .addressPhase) ∨
        (pend = .txData ∧ s.dir = .w ∧ (∃ k, s.fs = .dataPhase k) ∧ fs = s.fs) ∨
        (pend = .rx ∧ s.dir = .r ∧ (∃ k, s.fs = .dataPhase k) ∧ fs = s.fs)) :
      CommandMove s { s with dr := dr, cr := ⟨false, acken, sta, true⟩, pend := pend, fs := fs, seq := sq }

/-! ### From a micro-step's action to its move -/

theorem map_ok {e : Except Fault State} {f : State → State} (h : e.map f = .ok t) : ∃ u, e = .ok u ∧ t = f u := by
  cases e with
  | error r => cases h
  | ok u => cases h; exact ⟨u, rfl, rfl⟩

theorem microAt_some {prog : List MicroStep} {n : Nat} {m : MicroStep} (h : microAt prog n = some m) :
    ∃ k, n = k + 1 ∧ prog[k]? = some m := by
  cases n with
  | zero => cases h
  | succ n => exact ⟨n, rfl, h⟩

/-- A closing step: `u` is `s` with the sequencer's latches moved on. -/
theorem CommandMove.of_finish {u : State} {ok : Bool} {payload : List Byte} (hu : u = { s with seq := u.seq })
    (hc : u.seq.cmd = s.seq.cmd) (guard : ∃ g, s.currentGuard = some g ∧ g.isOpen s = true)
    (h : u.finish 0x94 ok payload = .ok t) : CommandMove s t := by
  obtain ⟨v, hv, rfl⟩ := map_ok h
  obtain ⟨hfs, rfl⟩ := State.writeCR_stop_ok hv
  rw [hu]
  exact CommandMove.stop (s := s) { u.seq with busy := false } ok payload hc rfl guard (by rw [hu] at hfs; exact hfs)

/-- A START trigger. -/
theorem CommandMove.of_start {u : State} {sq : Seq} (hu : u = { s with seq := u.seq }) (hc : sq.cmd = s.seq.cmd)
    (hb : sq.busy = s.seq.busy) (guard : ∃ g, s.currentGuard = some g ∧ g.isOpen s = true)
    (next : (microAt (program sq.cmd) sq.mpc).map MicroStep.guard = some .awaitRdy) (h : u.writeCR 0xA4 = .ok t) :
    CommandMove s { t with seq := sq } := by
  have e : u.fs = s.fs := by rw [hu]
  obtain ⟨hfs, rfl⟩ := State.writeCR_start_ok h
  rw [hu]
  exact CommandMove.trigger (s := s) s.dr false true .start s.fs sq hc hb guard next (by rw [e] at hfs; simp [hfs])

/-- A transfer without acknowledgment enable: transmit or receive, as the framing and direction have it. -/
theorem CommandMove.of_transfer {u : State} {sq : Seq} (hu : u = { s with dr := u.dr, seq := u.seq })
    (hc : sq.cmd = s.seq.cmd) (hb : sq.busy = s.seq.busy) (guard : ∃ g, s.currentGuard = some g ∧ g.isOpen s = true)
    (next : (microAt (program sq.cmd) sq.mpc).map MicroStep.guard = some .awaitRdy) (h : u.writeCR 0x84 = .ok t) :
    CommandMove s { t with seq := sq } := by
  have e1 : u.fs = s.fs := by rw [hu]
  have e2 : u.dir = s.dir := by rw [hu]
  obtain ⟨hfs, rfl⟩ | ⟨hd, hfs, rfl⟩ | ⟨hd, hfs, rfl⟩ := State.writeCR_transfer_ok h <;> rw [hu]
  · exact CommandMove.trigger (s := s) u.dr false false .txAddr .addressPhase sq hc hb guard next
      (by rw [e1] at hfs; simp [hfs])
  · exact CommandMove.trigger (s := s) u.dr false false .txData s.fs sq hc hb guard next
      (by rw [e1] at hfs; rw [e2] at hd; simp [hfs, hd])
  · exact CommandMove.trigger (s := s) u.dr false false .rx s.fs sq hc hb guard next
      (by rw [e1] at hfs; rw [e2] at hd; simp [hfs, hd])

/-- A receive with acknowledgment enable. -/
theorem CommandMove.of_receiveAck {u : State} {sq : Seq} (hu : u = { s with seq := u.seq }) (hc : sq.cmd = s.seq.cmd)
    (hb : sq.busy = s.seq.busy) (guard : ∃ g, s.currentGuard = some g ∧ g.isOpen s = true)
    (next : (microAt (program sq.cmd) sq.mpc).map MicroStep.guard = some .awaitRdy) (h : u.writeCR 0xC4 = .ok t) :
    CommandMove s { t with seq := sq } := by
  have e1 : u.fs = s.fs := by rw [hu]
  have e2 : u.dir = s.dir := by rw [hu]
  obtain ⟨hd, hfs, rfl⟩ := State.writeCR_rxa_ok h
  rw [hu]
  exact CommandMove.trigger (s := s) s.dr true false .rx s.fs sq hc hb guard next
    (by rw [e1] at hfs; rw [e2] at hd; simp [hfs, hd])

/-- `x[CR] <- 0x84` that falls through to the next micro-step. -/
theorem CommandMove.of_trigger {u : State} {n : Nat} (hu : u = { s with dr := u.dr, seq := u.seq })
    (hc : u.seq.cmd = s.seq.cmd) (hb : u.seq.busy = s.seq.busy)
    (guard : ∃ g, s.currentGuard = some g ∧ g.isOpen s = true) (hn : u.seq.mpc = n)
    (next : (microAt (program u.seq.cmd) (n + 1)).map MicroStep.guard = some .awaitRdy)
    (h : u.trigger 0x84 = .ok t) : CommandMove s t := by
  obtain ⟨x, hx, rfl⟩ := map_ok h
  subst hn
  exact CommandMove.of_transfer (sq := { x.seq with mpc := x.seq.mpc + 1 }) hu (by simpa [State.writeCR_seq hx])
    (by simpa [State.writeCR_seq hx]) guard (by simpa [State.writeCR_seq hx] using next) hx

/-- The opening step. -/
theorem CommandMove.of_openStep (hb : s.currentGuard = some .holdIdle) (hg : Guard.holdIdle.isOpen s = true)
    (hn : s.seq.mpc = 1) (next : (microAt (program s.seq.cmd) 2).map MicroStep.guard = some .awaitRdy)
    (h : openStep.act s = .ok t) : CommandMove s t := by
  obtain ⟨x, hx, rfl⟩ := map_ok h
  exact CommandMove.of_start (sq := { x.seq with mpc := x.seq.mpc + 1 }) rfl (by simp [State.writeCR_seq hx])
    (by simp [State.writeCR_seq hx]) ⟨_, hb, hg⟩ (by simpa [State.writeCR_seq hx, hn] using next) hx

/-- Every micro-step of every program, its guard open, is a move. -/
theorem CommandMove.of_act {m : MicroStep} (hm : microAt (program s.seq.cmd) s.seq.mpc = some m)
    (hg : m.guard.isOpen s = true) (h : m.act s = .ok t) : CommandMove s t := by
  have guard : ∃ g, s.currentGuard = some g ∧ g.isOpen s = true := ⟨m.guard, by simp [State.currentGuard, hm], hg⟩
  have cg : s.currentGuard = some m.guard := by simp [State.currentGuard, hm]
  obtain ⟨n, hn, hm⟩ := microAt_some hm
  cases hc : s.seq.cmd
  all_goals rw [hc] at hm
  case initializeBus c f =>
    match n with
    | 0 =>
      obtain rfl := Option.some.inj hm
      simp only at h
      split at h
      · obtain ⟨u, hu, rfl⟩ := map_ok h
        rw [State.writeCR_enable] at hu; cases hu
        exact CommandMove.configure (s := s) _ s.oar false { s.seq with busy := false } rfl rfl cg
          (.inl ⟨_, _, _, hc, ‹_›, rfl, rfl⟩)
      · cases h
    | n + 1 => cases hm
  case registerOwnAddress a =>
    match n with
    | 0 =>
      obtain rfl := Option.some.inj hm
      change (s.writeOAR (ownAddressByte a)).finish 0x44 true [] = _ at h
      obtain ⟨u, hu, rfl⟩ := map_ok h
      rw [State.writeCR_enableAck] at hu; cases hu
      exact CommandMove.configure (s := s) s.brr _ true { s.seq with busy := false } rfl rfl cg (.inr ⟨_, hc, rfl, rfl⟩)
    | n + 1 => cases hm
  case sendStart =>
    match n with
    | 0 => obtain rfl := Option.some.inj hm; exact CommandMove.of_openStep cg hg hn (by rw [hc]; rfl) h
    | 1 =>
      obtain rfl := Option.some.inj hm; cases h
      exact CommandMove.respond (s := s) { s.seq with busy := false } _ _ rfl rfl hg
    | n + 2 => cases hm
  case sendStop =>
    match n with
    | 0 =>
      obtain rfl := Option.some.inj hm
      exact CommandMove.of_finish rfl rfl guard h
    | n + 1 => cases hm
  case writeByte b =>
    match n with
    | 0 =>
      obtain rfl := Option.some.inj hm
      exact CommandMove.of_trigger (u := s.writeDR b) rfl rfl rfl guard hn
        (by rw [show (s.writeDR b).seq.cmd = s.seq.cmd from rfl, hc]; rfl) h
    | 1 =>
      obtain rfl := Option.some.inj hm; cases h
      exact CommandMove.respond (s := s) { s.seq with busy := false, s := _, ok := _ } _ _ rfl rfl hg
    | n + 2 => cases hm
  case readByteAck =>
    match n with
    | 0 =>
      obtain rfl := Option.some.inj hm
      obtain ⟨x, hx, rfl⟩ := map_ok h
      exact CommandMove.of_receiveAck (sq := { x.seq with mpc := x.seq.mpc + 1}) rfl
        (by simp [State.writeCR_seq hx]) (by simp [State.writeCR_seq hx]) guard
        (by rw [State.writeCR_seq hx, hn, hc]; rfl) hx
    | 1 =>
      obtain rfl := Option.some.inj hm; cases h
      exact CommandMove.respond (s := s) { s.seq with busy := false } _ _ rfl rfl hg
    | n + 2 => cases hm
  case readByteNoAck =>
    match n with
    | 0 =>
      obtain rfl := Option.some.inj hm
      exact CommandMove.of_trigger rfl rfl rfl guard hn (by rw [hc]; rfl) h
    | 1 =>
      obtain rfl := Option.some.inj hm; cases h
      exact CommandMove.respond (s := s) { s.seq with busy := false } _ _ rfl rfl hg
    | n + 2 => cases hm
  case writeByteTo a d =>
    match n with
    | 0 => obtain rfl := Option.some.inj hm; exact CommandMove.of_openStep cg hg hn (by rw [hc]; rfl) h
    | 1 =>
      obtain rfl := Option.some.inj hm
      exact CommandMove.of_trigger (u := s.writeDR (sla a .w)) rfl rfl rfl guard hn
        (by rw [show (s.writeDR (sla a .w)).seq.cmd = s.seq.cmd from rfl, hc]; rfl) h
    | 2 =>
      obtain rfl := Option.some.inj hm
      exact CommandMove.of_trigger (u := s.foldStatus.writeDR d) rfl rfl rfl guard hn
        (by rw [show (s.foldStatus.writeDR d).seq.cmd = s.seq.cmd from rfl, hc]; rfl) h
    | 3 =>
      obtain rfl := Option.some.inj hm
      exact CommandMove.of_finish (u := s.foldStatus) rfl rfl guard h
    | n + 4 => cases hm
  case readByteFrom a =>
    match n with
    | 0 => obtain rfl := Option.some.inj hm; exact CommandMove.of_openStep cg hg hn (by rw [hc]; rfl) h
    | 1 =>
      obtain rfl := Option.some.inj hm
      exact CommandMove.of_trigger (u := s.writeDR (sla a .r)) rfl rfl rfl guard hn
        (by rw [show (s.writeDR (sla a .r)).seq.cmd = s.seq.cmd from rfl, hc]; rfl) h
    | 2 =>
      obtain rfl := Option.some.inj hm
      exact CommandMove.of_trigger (u := s.foldStatus) rfl rfl rfl guard hn
        (by rw [show s.foldStatus.seq.cmd = s.seq.cmd from rfl, hc]; rfl) h
    | 3 =>
      obtain rfl := Option.some.inj hm
      exact CommandMove.of_finish (u := s.setRx [s.dr]) rfl rfl guard h
    | n + 4 => cases hm
  case writeBuffer a bytes =>
    match n with
    | 0 => obtain rfl := Option.some.inj hm; exact CommandMove.of_openStep cg hg hn (by rw [hc]; rfl) h
    | 1 =>
      obtain rfl := Option.some.inj hm
      change ((s.writeDR (sla a .w)).trigger 0x84).map (·.setIdx 1) = _ at h
      obtain ⟨y, h', rfl⟩ := map_ok h
      obtain ⟨x, hx, rfl⟩ := map_ok h'
      exact CommandMove.of_transfer (t := x) (u := s.writeDR (sla a .w))
        (sq := { x.seq with mpc := x.seq.mpc + 1, idx := 1}) rfl (by simp [State.writeCR_seq hx])
        (by simp [State.writeCR_seq hx]) guard
        (by rw [State.writeCR_seq hx]; simp only [State.writeDR]; rw [hc, hn]; rfl) hx
    | 2 =>
      obtain rfl := Option.some.inj hm
      change writeBufferLoop a bytes s = _ at h
      simp only [writeBufferLoop] at h
      split at h
      · exact CommandMove.of_finish (u := s.foldStatus) rfl rfl guard h
      · split at h
        · exact CommandMove.of_finish (u := s.foldStatus) rfl rfl guard h
        · split at h
          · rename_i b _
            obtain ⟨x, h', rfl⟩ := map_ok h
            exact CommandMove.of_transfer (sq := { x.seq with idx := s.foldStatus.seq.idx + 1})
              (u := s.foldStatus.writeDR b) rfl (by simp only [State.writeCR_seq h']; rfl)
              (by simp only [State.writeCR_seq h']; rfl) guard
              (by
                rw [State.writeCR_seq h']
                simp only [State.writeDR, State.foldStatus, State.latchStatus, State.setOk]
                rw [hc, hn]; rfl) h'
          · cases h; exact .hold
    | n + 3 => cases hm
  case readBuffer a k =>
    match n with
    | 0 => obtain rfl := Option.some.inj hm; exact CommandMove.of_openStep cg hg hn (by rw [hc]; rfl) h
    | 1 =>
      obtain rfl := Option.some.inj hm
      exact CommandMove.of_trigger (u := s.writeDR (sla a .r)) rfl rfl rfl guard hn
        (by rw [show (s.writeDR (sla a .r)).seq.cmd = s.seq.cmd from rfl, hc]; rfl) h
    | 2 =>
      obtain rfl := Option.some.inj hm
      change readBufferFirst k s = _ at h
      simp only [readBufferFirst] at h
      split at h
      · exact CommandMove.of_finish (u := s.foldStatus) rfl rfl guard h
      · split at h
        · rename_i v hv
          obtain ⟨x, hx, rfl⟩ := map_ok h
          have next : (microAt (program x.seq.cmd) (x.seq.mpc + 1)).map MicroStep.guard = some .awaitRdy := by
            rw [State.writeCR_seq hx]; simp only [State.foldStatus, State.latchStatus, State.setOk]; rw [hc, hn]; rfl
          have hcmd : x.seq.cmd = s.seq.cmd := by rw [State.writeCR_seq hx]; rfl
          have hbusy : x.seq.busy = s.seq.busy := by rw [State.writeCR_seq hx]; rfl
          unfold rxControl at hv
          split at hv
          · cases hv
            exact CommandMove.of_receiveAck (sq := { x.seq with mpc := x.seq.mpc + 1}) (u := s.foldStatus) rfl hcmd
              hbusy guard next hx
          · split at hv <;> cases hv
            exact CommandMove.of_transfer (sq := { x.seq with mpc := x.seq.mpc + 1}) (u := s.foldStatus) rfl hcmd
              hbusy guard next hx
        · cases h; exact .hold
    | 3 =>
      obtain rfl := Option.some.inj hm
      change readBufferLoop k s = _ at h
      simp only [readBufferLoop] at h
      split at h
      · exact CommandMove.of_finish (u := (s.setRx (s.seq.rx ++ [s.dr])).setIdx (s.seq.idx + 1)) rfl rfl guard h
      · split at h
        · rename_i v hv
          have next : (microAt (program t.seq.cmd) t.seq.mpc).map MicroStep.guard = some .awaitRdy := by
            rw [State.writeCR_seq h]; simp only [State.setRx, State.setIdx]; rw [hc, hn]; rfl
          have hcmd : t.seq.cmd = s.seq.cmd := by rw [State.writeCR_seq h]; rfl
          have hbusy : t.seq.busy = s.seq.busy := by rw [State.writeCR_seq h]; rfl
          unfold rxControl at hv
          split at hv
          · cases hv
            exact CommandMove.of_receiveAck (sq := t.seq)
              (u := (s.setRx (s.seq.rx ++ [s.dr])).setIdx (s.seq.idx + 1)) rfl hcmd hbusy guard next h
          · split at hv <;> cases hv
            exact CommandMove.of_transfer (sq := t.seq) (u := (s.setRx (s.seq.rx ++ [s.dr])).setIdx (s.seq.idx + 1))
              rfl hcmd hbusy guard next h
        · cases h; exact .hold
    | n + 4 => cases hm
  all_goals (cases hm)

/-- Every way the executing command's turn can go. -/
theorem exec_busy_cases (hf : s.flt = none) (hb : s.seq.busy = true) (hc : s.seq.cmd.isCommand = true)
    (h : exec s.seq.cmd s = .next t) : CommandMove s t ∨ ∃ r, t = s.raise r := by
  rw [exec_command hc, runCommand, whileLive_live hf, if_pos hb, if_pos rfl] at h
  obtain h | ⟨r, -, rfl⟩ := settle_next h
  · obtain h' | ⟨m, hm, hg, h'⟩ := runMicro_cases (program s.seq.cmd) s
    · rw [h'] at h; cases h; exact .inl .hold
    · rw [h'] at h; exact .inl (CommandMove.of_act hm hg h)
  · exact .inr ⟨r, rfl⟩

/-! ### One step of the machine -/

/-- Everything one step can do: `Move s t` says how `t` follows `s`. -/
inductive Move (s : State) : State → Prop
  /-- The host resets the block. -/
  | reset (rest : List Turn) (sched : s.schedule = .reset :: rest) : Move s { State.reset with schedule := rest }
  /-- A fault is raised. -/
  | raise (r : Fault) (live : s.flt = none) : Move s ({ s with schedule := s.schedule.tail }.raise r)
  /-- The environment offers a response. -/
  | answer (a : Answer) (rest : List Turn) (live : s.flt = none) (sched : s.schedule = .answer a :: rest) :
      Move s ({ s with schedule := rest }.takeAnswer a)
  /-- The engine completes a STOP, or has none to complete. -/
  | stop (live : s.flt = none) : Move s { s with schedule := s.schedule.tail }.takeStopCompletion
  /-- A turn of the sequencer with no command executing. -/
  | idle (live : s.flt = none) : Move s { s with schedule := s.schedule.tail }
  /-- A command is admitted and captured. -/
  | capture (i : Instr) (bytes : List Byte) (rest : List Turn) (live : s.flt = none)
    (sched : s.schedule = .issue bytes :: rest)
      (free : s.seq.busy = false) (decodes : decodeCommand bytes = .ok i)
      (admitted : admission i s = none) : Move s ({ s with schedule := rest }.capture i)
  /-- A raw control write is accepted. -/
  | control (v : Byte) (rest : List Turn) (t : State) (live : s.flt = none) (sched : s.schedule = .control v :: rest)
      (written : { s with schedule := rest }.writeCR v = .ok t) : Move s t
  /-- The executing command takes its turn. -/
  | command (t : State) (live : s.flt = none) (busy : s.seq.busy = true) (isCommand : s.seq.cmd.isCommand = true)
      (turn : s.schedule = [] ∨ ∃ rest, s.schedule = .sequencer :: rest)
      (ran : exec s.seq.cmd { s with schedule := s.schedule.tail } = .next t)
      (move : CommandMove { s with schedule := s.schedule.tail } t) : Move s t
  /-- The sequencer holds a control-register action (no run reaches such a state: `EngineInvariant.busy_command`). -/
  | rawBusy (t : State) (live : s.flt = none) (busy : s.seq.busy = true) (notCommand : s.seq.cmd.isCommand = false)
      (turn : s.schedule = [] ∨ ∃ rest, s.schedule = .sequencer :: rest)
      (ran : exec s.seq.cmd { s with schedule := s.schedule.tail } = .next t) : Move s t

/-- A step that answers a next state is one of the moves. -/
theorem step_cases (h : step s = .next t) : Move s t := by
  unfold step at h
  split at h
  · rename_i hs
    obtain ⟨hf, h⟩ := whileLive_next h
    unfold takeOwnStep at h
    have hs' : { s with schedule := s.schedule.tail } = s := by rw [hs]; cases s; simp_all
    split at h
    · rename_i he
      have hb : s.seq.busy = true := by simp [State.sequencerEnabled] at he; exact he.1
      cases hc : s.seq.cmd.isCommand
      · exact .rawBusy t hf hb hc (.inl hs) (by rw [hs']; exact h)
      · have h0 := h
        obtain h | ⟨r, rfl⟩ := exec_busy_cases hf hb hc h
        · exact .command t hf hb hc (.inl hs) (by rw [hs']; exact h0) (by rw [hs']; exact h)
        · have := Move.raise (s := s) r hf
          rw [hs'] at this; exact this
    · cases h
      have := Move.stop (s := s) hf
      rw [hs'] at this; exact this
  · rename_i hs
    cases h; exact .reset _ hs
  · rename_i turn rest hr hs
    obtain ⟨hf, h⟩ := whileLive_next h
    have ht : s.schedule.tail = rest := by rw [hs]; rfl
    have hraise : ∀ r, Move s ({ s with schedule := rest }.raise r) := fun r => by
      have := Move.raise (s := s) r hf
      rwa [ht] at this
    cases turn with
    | reset => exact absurd rfl (hr)
    | answer a => cases h; exact .answer a rest hf hs
    | stopCompletion =>
      cases h
      have := Move.stop (s := s) hf
      rwa [ht] at this
    | sequencer =>
      simp only [takeTurn, takeSequencer] at h
      split at h
      · rename_i hb
        cases hc : s.seq.cmd.isCommand
        · exact .rawBusy t hf hb hc (.inr ⟨_, hs⟩) (by rw [ht]; exact h)
        · have h0 := h
          obtain h | ⟨r, rfl⟩ := exec_busy_cases (s := { s with schedule := rest }) hf hb hc h
          · exact .command t hf hb hc (.inr ⟨_, hs⟩) (by rw [ht]; exact h0) (by rw [ht]; exact h)
          · exact hraise r
      · cases h
        have := Move.idle (s := s) hf
        rwa [ht] at this
    | control v =>
      simp only [takeTurn, takeControl] at h
      split at h
      · rename_i i hd
        rw [exec_control (decodeControl_ok hd)] at h
        obtain ⟨-, rfl | h⟩ := runControl_next h
        · exact hraise _
        · exact .control v rest t hf hs h
      · cases h; exact hraise _
    | issue bytes =>
      simp only [takeTurn, takeIssue] at h
      split at h
      · cases h; exact hraise _
      · rename_i he
        have hb : s.seq.busy = false := by simpa using he
        split at h
        · rename_i i hd
          rw [exec_command (decodeCommand_isCommand hd)] at h
          obtain ⟨-, ⟨hb', -⟩ | ⟨hb', -⟩ | ⟨-, r, -, rfl⟩ | ⟨-, ha, rfl⟩⟩ := runCommand_next h
          · exact absurd (hb.symm.trans hb') (by simp)
          · exact absurd (hb.symm.trans hb') (by simp)
          · exact hraise r
          · exact .capture i bytes rest hf hs hb hd ha
        · cases h; exact hraise _

/-! ### One step, turn by turn -/

theorem step_issue (bytes : List Byte) (rest : List Turn) (i : Instr) (hf : s.flt = none) (hb : s.seq.busy = false)
    (hd : decodeCommand bytes = .ok i) :
    step { s with schedule := .issue bytes :: rest } = exec i { s with schedule := rest } := by
  simp only [step, takeTurn, takeIssue, hb, hd]
  rw [whileLive_live (by exact hf)]; rfl

/-- A raw control write steps as the `CR` write of its value (R180), in every live state. -/
theorem step_control (v : Byte) (rest : List Turn) (hf : s.flt = none) :
    step { s with schedule := .control v :: rest } =
      settle { s with schedule := rest } (({ s with schedule := rest } : State).writeCR v) := by
  simp only [step, takeTurn, takeControl]
  rw [whileLive_live (by exact hf)]
  cases hd : decodeControl v s.fs s.dir with
  | ok i => simp only; rw [exec_control (decodeControl_ok hd), runControl, whileLive_live (by exact hf)]
  | error e => simp only; rw [State.writeCR_undecoded (s := { s with schedule := rest }) hd]; rfl

theorem step_sequencer (rest : List Turn) (hf : s.flt = none) (hb : s.seq.busy = true) :
    step { s with schedule := .sequencer :: rest } = exec s.seq.cmd { s with schedule := rest } := by
  simp only [step, whileLive, hf, takeTurn, takeSequencer, hb, if_true]

theorem step_stopCompletion (rest : List Turn) (hf : s.flt = none) :
    step { s with schedule := .stopCompletion :: rest } =
      .next ({ s with schedule := rest } : State).takeStopCompletion := by
  simp only [step, whileLive, hf, takeTurn]

theorem step_answer (a : Answer) (rest : List Turn) (hf : s.flt = none) :
    step { s with schedule := .answer a :: rest } = .next (({ s with schedule := rest } : State).takeAnswer a) := by
  simp only [step, whileLive, hf, takeTurn]

/-! ### Runs -/

@[simp] theorem runTurns_nil (s : State) : runTurns [] s = .next { s with schedule := [] } := rfl

/-- A run goes on from what its first step leaves. -/
theorem runTurns_cons {turn : Turn} {rest : List Turn} {u : State}
    (h : step { s with schedule := turn :: rest } = .next { u with schedule := rest }) :
    runTurns (turn :: rest) s = runTurns rest u := by
  simp only [runTurns, List.length_cons, Host.Core.run, core, h]

end Sys2Proof.Machine
end

