-- ==== Sys2Proof/Tests/Slice0.lean ====
section
/-! SUPPORT. Tests of the model: well-formedness, decoding, one step per instruction, and for each statement with
hypotheses a state and operands that meet them all. Expected values are the spec's (the rule or vector is named), never
the model's own answers. -/

namespace Sys2Proof.Tests

open Sys2Proof Sys2Proof.Machine

/-! ### Well-formedness (R95): every check refuses something -/

theorem test_clock_width :
    (Instr.initializeBus (2 ^ 32) 100).wellFormed = false ∧
      (Instr.initializeBus 4294967295 65535).wellFormed = true := by decide

theorem test_frequency_width : (Instr.initializeBus 8000000 (2 ^ 16)).wellFormed = false := by decide

theorem test_payload_length :
    (Instr.writeBuffer 0x50 (List.replicate 256 0)).wellFormed = false ∧
      (Instr.writeBuffer 0x50 (List.replicate 255 0)).wellFormed = true := by
  simp only [Instr.wellFormed, List.length_replicate]; decide

theorem test_read_length :
    (Instr.readBuffer 0x50 256).wellFormed = false ∧ (Instr.readBuffer 0x50 255).wellFormed = true := by decide

/-! ### Decoding: words written out from R93, R94, R99; R105's examples and the vectors of section 2.2 -/

/-- Every command, bit by bit. -/
theorem test_decode_commands :
    decodeCommand [0b00000001, 0b00000000, 0b00010010, 0b01111010, 0b00000000, 0b01100100, 0b00000000] =
        .ok (.initializeBus 8000000 100) ∧
    decodeCommand [0b00000010] = .ok .sendStart ∧
    decodeCommand [0b00000011] = .ok .sendStop ∧
    decodeCommand [0b00000100, 0b10101010] = .ok (.writeByte 0xAA) ∧
    decodeCommand [0b00000101] = .ok .readByteAck ∧
    decodeCommand [0b00000110] = .ok .readByteNoAck ∧
    decodeCommand [0b00000111, 0b01000010] = .ok (.registerOwnAddress 0x42) ∧
    decodeCommand [0b00001000, 0b00010000, 0b10101010] = .ok (.writeByteTo 0x10 0xAA) ∧
    decodeCommand [0b00001001, 0b00010000] = .ok (.readByteFrom 0x10) ∧
    decodeCommand [0b00001010, 0b01010000, 0b00000011, 0b00000000, 0b00010001, 0b00100010] =
        .ok (.writeBuffer 0x50 [0x00, 0x11, 0x22]) ∧
    decodeCommand [0b00001011, 0b00010000, 0b00000011] = .ok (.readBuffer 0x10 3) := by
  refine ⟨?_, ?_, ?_, ?_, ?_, ?_, ?_, ?_, ?_, ?_, ?_⟩ <;> decide

/-- Every operand byte lands in its place (R95: the clock's bytes 1 to 4, then the frequency's, low byte first). -/
theorem test_decode_byte_order :
    decodeCommand [0x01, 0x78, 0x56, 0x34, 0x12, 0xCD, 0xAB] = .ok (.initializeBus 0x12345678 0xABCD) := by decide

/-- Section 2.2, legal corner cases. -/
theorem test_decode_corners :
    decodeCommand [0x04, 0x00] = .ok (.writeByte 0) ∧ decodeCommand [0x07, 0x7F] = .ok (.registerOwnAddress 0x7F) ∧
    decodeCommand [0x0A, 0x50, 0x00] = .ok (.writeBuffer 0x50 []) ∧
    decodeCommand [0x0B, 0x10, 0x00] = .ok (.readBuffer 0x10 0) ∧
    decodeCommand [0x0B, 0x7F, 0xFF] = .ok (.readBuffer 0x7F 255) ∧
    decodeCommand [0x0A, 0x00, 0x01, 0xFF] = .ok (.writeBuffer 0x00 [0xFF]) := by decide

/-- The command a string is, if any. -/
def reads (bytes : List Byte) : Option Instr :=
  match decodeCommand bytes with
  | .ok i => some i
  | .error _ => none

/-- Section 2.2, illegal strings. -/
theorem test_decode_illegal :
    ∀ bytes ∈ ([[], [0x00], [0x0C], [0x12], [0xFF], [0x02, 0x00], [0x04], [0x08, 0x10], [0x08, 0x90, 0xAA], [0x07, 0x80],
      [0x0A, 0x50, 0x03, 0x00, 0x11], [0x0A, 0x50, 0x01, 0x00, 0x11], [0x01, 0x00, 0x12, 0x7A, 0x00, 0x64],
      [0x0B, 0x10]] : List (List Byte)), reads bytes = none := by decide

/-- R99: each control value under its condition, bits `TRIG ACKEN STA STO 0 EN 0 0`. -/
theorem test_decode_control :
    decodeControl 0b00000100 .idle .w = .ok .enable ∧ decodeControl 0b01000100 .idle .w = .ok .enableAck ∧
    decodeControl 0b10100100 .idle .w = .ok .start ∧ decodeControl 0b10010100 .started .w = .ok .stop ∧
    decodeControl 0b10000100 .started .w = .ok .txa ∧ decodeControl 0b10000100 (.dataPhase 0) .w = .ok .txd ∧
    decodeControl 0b10000100 (.dataPhase 0) .r = .ok .rxn ∧ decodeControl 0b11000100 (.dataPhase 0) .r = .ok .rxa := by
  decide

/-- R100: values that are none of the six. -/
theorem test_decode_control_reserved :
    ∀ v ∈ ([0x00, 0x80, 0xA0, 0x05, 0x06, 0x0C, 0x85, 0x24, 0x14, 0x34, 0x64, 0xB4, 0xF4, 0xE4, 0xD4] : List Byte),
      decodeControl v .started .w = .error (.reservedControl v) := by decide

/-- Words as the table numbers them: the first byte lowest, operand bytes the table gives no bits zero. -/
theorem test_table_words :
    decodeTableWord 8 0x02 = some .sendStart ∧ decodeTableWord 16 0xAA04 = some (.writeByte 0xAA) ∧
    decodeTableWord 24 0xAA1008 = some (.writeByteTo 0x10 0xAA) ∧
    decodeTableWord 56 0x0064007A120001 = some (.initializeBus 8000000 100) ∧
    decodeTableWord 8 0xA4 = some .start ∧ decodeTableWord 8 0x0A = some (.writeBuffer 0 []) := by decide

/-- R105: the textual examples. -/
theorem test_assembler :
    assemble "initialize(8000000, 100)".toList = some (.initializeBus 8000000 100) ∧
    assemble "sendStart()".toList = some .sendStart ∧
    assemble "writeByteTo(0x10, 0xAA)".toList = some (.writeByteTo 0x10 0xAA) ∧
    assemble "writeBuffer(0x50, [0x00, 0x11, 0x22])".toList = some (.writeBuffer 0x50 [0x00, 0x11, 0x22]) ∧
    assemble "writeByteTo(0x80, 0)".toList = none := by decide

/-! ### Arithmetic and flags -/

/-- Section 2.1. -/
theorem test_divisor :
    divisor 8000000 100 = some 32 ∧ divisor 16000000 400 = some 12 ∧ divisor 8000000 300 = some 5 ∧
    divisor 1600000 100 = some 0 ∧ divisor 1799999 100 = some 0 ∧ divisor 1800000 100 = some 1 ∧
    divisor 8000000 501 = none ∧ divisor 8000000 0 = none ∧ divisor 52799999 100 = some 255 ∧
    divisor 52800000 100 = none ∧ divisor 4294967295 65535 = some 24 := by decide

/-- Section 2.2, address bytes. -/
theorem test_sla :
    sla 0x50 .w = 0xA0 ∧ sla 0x50 .r = 0xA1 ∧ sla 0x7F .w = 0xFE ∧ sla 0x7F .r = 0xFF ∧
    ownAddressByte 0x7F = 0xFE := by decide

/-- R103, section 2.2: the rejected codes among those this block produces. -/
theorem test_ackOk_rejects :
    ∀ s ∈ ([0x00, 0x08, 0x10, 0x20, 0x30, 0x38, 0x48, 0x58, 0xF8] : List Byte), ackOk s = false := by decide

/-- Section 2.2, responses. -/
theorem test_response_bytes :
    (Response.mk true []).bytes = [0x01] ∧ (Response.mk false [0xFF]).bytes = [0x00, 0xFF] ∧
    (Response.mk true [0x01, 0x02, 0x03]).bytes = [0x01, 0x01, 0x02, 0x03] := by decide

/-! ### Small states -/

/-- After `initialize(8000000, 100)` (section 2.3: `0x20 0x04 0xF8`, `Idle`). -/
def enabled : State := { State.reset with brr := 0x20, cr := ⟨false, false, false, true⟩ }

/-- `enabled`, in a framing state, nothing executing. -/
def inFrame (fs : Framing) (dir : Dir) : State := { enabled with fs := fs, dir := dir }

/-- `enabled`, executing `i` at micro-step `mpc` in a framing state, the last operation complete. -/
def executing (i : Instr) (mpc : Nat) (fs : Framing) (dir : Dir) : State :=
  { enabled with
    cr := ⟨true, false, false, true⟩
    fs := fs
    dir := dir
    seq := ⟨true, i, mpc, 0, true, [], 0⟩ }

/-- `executing`, the operation `pend` not yet complete. -/
def waiting (i : Instr) (mpc : Nat) (fs : Framing) (dir : Dir) (pend : Pending) : State :=
  { executing i mpc fs dir with cr := ⟨false, false, false, true⟩, pend := pend }

/-- With the given turns to come. -/
def withTurns (turns : List Turn) (s : State) : State := { s with schedule := turns }

/-- What a register-level test looks at: `CR`, `SR`, `DR` as read, `FS`, `PEND`, and the responses. -/
structure View where
  cr : Byte
  sr : Byte
  dr : Byte
  fs : Framing
  pend : Pending
  out : List Response
deriving DecidableEq, Repr

/-- The view of a next state. -/
def view (o : Host.Outcome State Fault Refusal) : Option View :=
  match o with
  | .next t => some ⟨t.readCR, t.readSR, t.dr, t.fs, t.pend, t.out⟩
  | .fault _ => none
  | .refused _ => none

/-- The fault a step records. -/
def recorded (o : Host.Outcome State Fault Refusal) : Option Fault :=
  match o with
  | .next t => t.flt
  | .fault _ => none
  | .refused _ => none

/-! ### One step of each instruction -/

/-- R130's example, micro-step 1, from reset: `x[BRR] = 0x20`, `x[CR] = 0x04`. -/
theorem test_initialize :
    ∃ t, exec (.initializeBus 8000000 100)
        { State.reset with seq := ⟨true, .initializeBus 8000000 100, 1, 0, true, [], 0⟩ } = .next t ∧
      t.brr = 0x20 ∧ t.readCR = 0x04 ∧ t.readSR = 0xF8 ∧ t.out = [⟨true, []⟩] :=
  ⟨_, rfl, by decide⟩

/-- Section 2.1, below the vectors: with `x[CR] = 0xA4` and `FS = Started`, `initialize` leaves `x[CR] = 0x84`. -/
theorem test_initialize_keeps_ready :
    view (exec (.initializeBus 8000000 100)
      { executing (.initializeBus 8000000 100) 1 .started .w with cr := ⟨true, false, true, true⟩ }) =
        some ⟨0x84, 0xF8, 0, .started, .none, [⟨true, []⟩]⟩ := by decide

/-- T-P3: the START is triggered, `x[CR]` reads `0x24`. -/
theorem test_sendStart :
    view (exec .sendStart (executing .sendStart 1 .idle .w)) = some ⟨0x24, 0xF8, 0, .idle, .start, []⟩ := by decide

/-- T-P15: STOP and the response at once, `x[CR]` reads `0x14`. -/
theorem test_sendStop :
    view (exec .sendStop (executing .sendStop 1 (.dataPhase 1) .r)) =
      some ⟨0x14, 0xF8, 0, .stopped, .none, [⟨true, []⟩]⟩ := by decide

/-- R144: an address byte is triggered in `Started`. -/
theorem test_writeByte_triggers :
    view (exec (.writeByte 0x21) (executing (.writeByte 0x21) 1 .started .w)) =
      some ⟨0x04, 0xF8, 0x21, .addressPhase, .txAddr, []⟩ := by decide

/-- T-P10: status `0x30` gives `false`. -/
theorem test_writeByte_result :
    view (exec (.writeByte 0x00) { executing (.writeByte 0x00) 2 (.dataPhase 4) .w with srCode := 6 }) =
      some ⟨0x84, 0x30, 0, .dataPhase 4, .none, [⟨false, []⟩]⟩ := by decide

/-- T-E7: the receive is triggered with `ACKEN = 1`, `x[CR]` reads `0x44`. -/
theorem test_readByteAck_triggers :
    view (exec .readByteAck (executing .readByteAck 1 (.dataPhase 0) .r)) =
      some ⟨0x44, 0xF8, 0, .dataPhase 0, .rx, []⟩ := by decide

/-- T-P12: the byte received is the payload. -/
theorem test_readByteAck_result :
    view (exec .readByteAck { executing .readByteAck 2 (.dataPhase 1) .r with dr := 0x5A, srCode := 10 }) =
      some ⟨0x84, 0x50, 0x5A, .dataPhase 1, .none, [⟨true, [0x5A]⟩]⟩ := by decide

/-- R146: `ACKEN = 0`, the same value a transmit writes, but `DIR = R` makes it a receive. -/
theorem test_readByteNoAck :
    view (exec .readByteNoAck (executing .readByteNoAck 1 (.dataPhase 2) .r)) =
      some ⟨0x04, 0xF8, 0, .dataPhase 2, .rx, []⟩ := by decide

/-- T-P19: `x[CR]` becomes `0xC4` (`RDY` kept, `STA` cleared), `OAR = 0x84`. -/
theorem test_registerOwnAddress :
    ∃ t, exec (.registerOwnAddress 0x42)
        { executing (.registerOwnAddress 0x42) 1 .started .w with cr := ⟨true, false, true, true⟩ } = .next t ∧
      t.oar = 0x84 ∧ t.readCR = 0xC4 ∧ t.fs = .started :=
  ⟨_, rfl, by decide⟩

/-- P1, step 3: the data byte is sent after an acknowledged address byte. -/
theorem test_writeByteTo :
    view (exec (.writeByteTo 0x10 0xAA) { executing (.writeByteTo 0x10 0xAA) 3 (.dataPhase 0) .w with srCode := 3 }) =
      some ⟨0x04, 0x18, 0xAA, .dataPhase 0, .txData, []⟩ := by decide

/-- T-WT3, step 4: a failed address byte is not forgotten. -/
theorem test_writeByteTo_ok_does_not_recover :
    view (exec (.writeByteTo 0x10 0xAA)
      { executing (.writeByteTo 0x10 0xAA) 4 (.dataPhase 1) .w with
        srCode := 5, seq := ⟨true, .writeByteTo 0x10 0xAA, 4, 0, false, [], 0x20⟩ }) =
      some ⟨0x14, 0x28, 0, .stopped, .none, [⟨false, []⟩]⟩ := by decide

/-- R162, step 2: the address byte is `0x21`. -/
theorem test_readByteFrom :
    view (exec (.readByteFrom 0x10) (executing (.readByteFrom 0x10) 2 .started .w)) =
      some ⟨0x04, 0xF8, 0x21, .addressPhase, .txAddr, []⟩ := by decide

/-- P2, third visit of step 3: status `0x30` ends the loop with a STOP, `0x22` is not sent. -/
theorem test_writeBuffer_stops :
    view (exec (.writeBuffer 0x50 [0x00, 0x11, 0x22])
      { executing (.writeBuffer 0x50 [0x00, 0x11, 0x22]) 3 (.dataPhase 2) .w with
        dr := 0x11, srCode := 6, seq := ⟨true, .writeBuffer 0x50 [0x00, 0x11, 0x22], 3, 3, true, [], 0x28⟩ }) =
      some ⟨0x14, 0x30, 0x11, .stopped, .none, [⟨false, []⟩]⟩ := by decide

/-- P2, second visit of step 3: `data[2] = 0x11` is sent next. -/
theorem test_writeBuffer_next :
    view (exec (.writeBuffer 0x50 [0x00, 0x11, 0x22])
      { executing (.writeBuffer 0x50 [0x00, 0x11, 0x22]) 3 (.dataPhase 1) .w with
        srCode := 5, seq := ⟨true, .writeBuffer 0x50 [0x00, 0x11, 0x22], 3, 2, true, [], 0x18⟩ }) =
      some ⟨0x04, 0x28, 0x11, .dataPhase 1, .txData, []⟩ := by decide

/-- T-RB2: after the first of two bytes the next receive answers NACK (`0x84`). -/
theorem test_readBuffer_last_nack :
    view (exec (.readBuffer 0x50 2) { executing (.readBuffer 0x50 2) 4 (.dataPhase 1) .r with dr := 0xDE, srCode := 10 }) =
      some ⟨0x04, 0x50, 0xDE, .dataPhase 1, .rx, []⟩ := by decide

/-- T-RB0n: nothing is read, `ok` is the address byte's result. -/
theorem test_readBuffer_empty :
    view (exec (.readBuffer 0x10 0) { executing (.readBuffer 0x10 0) 3 (.dataPhase 0) .r with srCode := 9 }) =
      some ⟨0x14, 0x48, 0, .stopped, .none, [⟨false, []⟩]⟩ := by decide

/-- T-E10: `ENABLE` in `Stopped` does not cancel the stop. -/
theorem test_enable : view (exec .enable (inFrame .stopped .w)) = some ⟨0x14, 0xF8, 0, .stopped, .none, []⟩ := by decide

/-- T-E2. -/
theorem test_enableAck : view (exec .enableAck State.reset) = some ⟨0x44, 0xF8, 0, .idle, .none, []⟩ := by decide

/-- T-E3. -/
theorem test_start : view (exec .start (inFrame .idle .w)) = some ⟨0x24, 0xF8, 0, .idle, .start, []⟩ := by decide

/-- T-E8. -/
theorem test_stop :
    view (exec .stop (inFrame (.dataPhase 7) .r)) = some ⟨0x14, 0xF8, 0, .stopped, .none, []⟩ := by decide

/-- T-E4. -/
theorem test_txa :
    view (exec .txa (inFrame .started .r)) = some ⟨0x04, 0xF8, 0, .addressPhase, .txAddr, []⟩ := by decide

/-- T-E5. -/
theorem test_txd :
    view (exec .txd (inFrame (.dataPhase 1) .w)) = some ⟨0x04, 0xF8, 0, .dataPhase 1, .txData, []⟩ := by decide

/-- T-E6. -/
theorem test_rxn :
    view (exec .rxn (inFrame (.dataPhase 1) .r)) = some ⟨0x04, 0xF8, 0, .dataPhase 1, .rx, []⟩ := by decide

/-- T-E7. -/
theorem test_rxa :
    view (exec .rxa (inFrame (.dataPhase 1) .r)) = some ⟨0x44, 0xF8, 0, .dataPhase 1, .rx, []⟩ := by decide

/-- T-E18, T-E15, T-E16: actions out of their condition. -/
theorem test_control_out_of_condition :
    recorded (exec .rxa (inFrame (.dataPhase 1) .w)) = some (.illegalControl 0xC4 (.dataPhase 1) .w) ∧
    recorded (exec .start (inFrame .started .w)) = some (.illegalControl 0xA4 .started .w) ∧
    recorded (exec .stop (inFrame .idle .w)) = some (.illegalControl 0x94 .idle .w) := by decide

/-- R194, R195, R211: a raw `ENABLE` while a command executes with an operation pending is no fault. -/
theorem test_control_while_pending :
    view (step (withTurns [.control 0x04] (waiting .sendStart 2 .idle .w .start))) =
      some ⟨0x04, 0xF8, 0, .idle, .start, []⟩ ∧
    view (step (withTurns [.control 0x44] (waiting .sendStart 2 .idle .w .start))) =
      some ⟨0x44, 0xF8, 0, .idle, .start, []⟩ := by decide

/-- R100: `0x94`, `0x84` and `0xC4` are reserved in `AddressPhase`. -/
theorem test_control_in_address_phase :
    ∀ v ∈ ([0x94, 0x84, 0xC4] : List Byte),
      recorded (step (withTurns [.control v] (waiting (.writeByte 0x20) 2 .addressPhase .w .txAddr))) =
        some (.illegalControl v .addressPhase .w) := by decide

/-- R130: `initialize` is admitted whatever `PEND` is, when no command executes. -/
theorem test_initialize_admitted_while_pending :
    ∃ t, step (withTurns [.issue [0x01, 0x00, 0x12, 0x7A, 0x00, 0x64, 0x00]] { enabled with pend := .start }) = .next t ∧
      t.flt = none ∧ t.seq.busy = true ∧ t.seq.cmd = .initializeBus 8000000 100 :=
  ⟨_, rfl, by decide⟩

/-! ### Admission faults and completions -/

/-- T-F15 and T-F17: `IllegalCommand` before `NotEnabled`, `Reentrancy` before `IllegalCommand`. -/
theorem test_check_order :
    recorded (step (withTurns [.issue [0x0C]] State.reset)) = some (.illegalCommand [0x0C]) ∧
    recorded (step (withTurns [.issue [0x0C]] (executing .sendStart 1 .idle .w))) =
      some (.reentrancy (.command [0x0C])) := by decide

/-- T-F1, T-F16, T-F6, T-F8. -/
theorem test_admission :
    recorded (step (withTurns [.issue [0x02]] State.reset)) = some (.notEnabled .sendStart) ∧
    recorded (step (withTurns [.issue [0x01, 0x40, 0x42, 0x0F, 0x00, 0x64, 0x00]] State.reset)) =
      some (.configError 1000000 100) ∧
    recorded (step (withTurns [.issue [0x02]] (inFrame .started .w))) = some (.protocolFault .sendStart .started .w) ∧
    recorded (step (withTurns [.issue [0x05]] (inFrame (.dataPhase 0) .w))) =
      some (.protocolFault .readByteAck (.dataPhase 0) .w) := by decide

/-- R184's example: `x[DR] = 0x21`, `Ack`: `x[SR] = 0x40`, `DIR = R`, `DataPhase(0)`. -/
theorem test_address_completion :
    ∃ t, step (withTurns [.answer (.tx .ack)]
        { waiting (.writeByte 0x21) 2 .addressPhase .w .txAddr with dr := 0x21 }) = .next t ∧
      t.readSR = 0x40 ∧ t.dir = .r ∧ t.fs = .dataPhase 0 ∧ t.readCR = 0x84 :=
  ⟨_, rfl, by decide⟩

/-- R189: the STOP completes on its own: `Idle`, `0xF8`, `RDY` not set. -/
theorem test_stop_completion :
    view (step (inFrame .stopped .w)) = some ⟨0x04, 0xF8, 0, .idle, .none, []⟩ := by decide

/-! ### Witnesses: states and operands that meet the hypotheses of the statements of Obligations.lean -/

/-- Every command, its operands at the ends of their ranges. -/
theorem witness_CommandRoundTrip :
    ∀ i ∈ [Instr.initializeBus 4294967295 65535, .sendStart, .sendStop, .writeByte 0xFF, .readByteAck, .readByteNoAck,
      .registerOwnAddress 0x7F, .writeByteTo 0x7F 0xFF, .readByteFrom 0, .writeBuffer 0x7F [], .readBuffer 0x7F 255],
      i.isCommand = true ∧ i.wellFormed = true := by decide

theorem witness_DecodedStringIsTheEncoding : ∃ bytes i, decodeCommand bytes = .ok i :=
  ⟨[0x0A, 0x00, 0x01, 0xFF], .writeBuffer 0 [0xFF], by decide⟩

/-- Each kind of illegal string, presented to a free block. -/
theorem witness_IllegalCommandStrings :
    ∀ bytes ∈ ([[], [0x00], [0x0C], [0xFF], [0x02, 0x00], [0x04], [0x07, 0x80], [0x0A, 0x50, 0x01]] : List (List Byte)),
      let s := withTurns [.issue bytes] enabled
      s.flt = none ∧ s.seq.busy = false ∧ s.schedule = [.issue bytes] ∧ reads bytes = none := by decide

/-- Each control-register action under its condition. -/
theorem witness_ControlActionsDecode :
    ∀ p ∈ [(Instr.enable, Framing.stopped, Dir.w), (.enableAck, .idle, .r), (.start, .idle, .w), (.stop, .started, .w),
      (.stop, .dataPhase 0, .r), (.txa, .started, .r), (.txd, .dataPhase 3, .w), (.rxn, .dataPhase 0, .r),
      (.rxa, .dataPhase 0, .r)], p.1.isCommand = false ∧ controlCondition p.1 p.2.1 p.2.2 = true := by decide

/-- The five clauses: a command, one presented with an operation pending; a control value, one presented to an executing
command; a sequencer turn; the block's own step; a table word, a control word presented to an executing command. -/
theorem witness_StepRunsDecodedInstruction :
    (∀ s ∈ [withTurns [.issue [0x02]] enabled, withTurns [.issue [0x02]] { enabled with pend := .start }],
      s.flt = none ∧ s.seq.busy = false ∧ s.schedule = [.issue [0x02]] ∧ reads [0x02] = some .sendStart) ∧
    (∀ p ∈ [((0x84 : Byte), Instr.rxn, inFrame (.dataPhase 0) .r), (0x04, .enable, waiting .sendStart 2 .idle .w .start)],
      p.2.2.flt = none ∧ decodeControl p.1 p.2.2.fs p.2.2.dir = .ok p.2.1) ∧
    (let s := withTurns [.sequencer] (executing .sendStart 1 .idle .w)
     s.flt = none ∧ s.seq.busy = true ∧ s.schedule = [.sequencer]) ∧
    (let s := executing .sendStart 1 .idle .w
     s.flt = none ∧ s.schedule = [] ∧ s.sequencerEnabled = true) ∧
    (enabled.flt = none ∧ enabled.seq.busy = false ∧
      decode (tableWord 16 0xAA04) enabled.fs enabled.dir = .ok (.writeByte 0xAA)) ∧
    (let s := waiting .sendStart 2 .idle .w .start
     s.flt = none ∧ tableWord 8 0x44 = .control 0x44 ∧ decode (tableWord 8 0x44) s.fs s.dir = .ok .enableAck) := by
  decide

/-- A state that admits each command. -/
theorem witness_AdmittedCommandIsCaptured :
    ∀ p ∈ [(Instr.initializeBus 8000000 100, State.reset), (.registerOwnAddress 0, inFrame (.dataPhase 0) .w),
      (.sendStart, inFrame .stopped .w), (.sendStop, inFrame .started .w), (.writeByte 0, inFrame (.dataPhase 0) .w),
      (.readByteAck, inFrame (.dataPhase 0) .r), (.readByteNoAck, inFrame (.dataPhase 4) .r),
      (.writeByteTo 0 0, enabled), (.readByteFrom 0, enabled), (.writeBuffer 0 [], inFrame .stopped .r),
      (.readBuffer 0 0, enabled)],
      p.1.isCommand = true ∧ p.2.flt = none ∧ p.2.seq.busy = false ∧ badConfiguration p.1 = none ∧
        (touchesBus p.1 = true → p.2.cr.en = true ∧ admittedIn p.1 p.2.fs p.2.dir = true) := by decide

/-- One state for each of the five checks. -/
theorem witness_IssueChecksInOrder :
    (∃ s : State, s.flt = none ∧ s.schedule = [.issue [0x0C]] ∧ s.seq.busy = true) ∧
    (∃ s : State, s.flt = none ∧ s.schedule = [.issue [0x0C]] ∧ s.seq.busy = false ∧
      reads [0x0C] = none) ∧
    (∃ s : State, s.flt = none ∧ s.schedule = [.issue [0x01, 0, 0, 0, 0, 0, 0]] ∧ s.seq.busy = false ∧
      decodeCommand [0x01, 0, 0, 0, 0, 0, 0] = .ok (.initializeBus 0 0) ∧ divisor 0 0 = none) ∧
    (∃ s : State, s.flt = none ∧ s.schedule = [.issue [0x05]] ∧ s.seq.busy = false ∧
      decodeCommand [0x05] = .ok .readByteAck ∧ touchesBus .readByteAck = true ∧ s.cr.en = false) ∧
    (∃ s : State, s.flt = none ∧ s.schedule = [.issue [0x05]] ∧ s.seq.busy = false ∧
      decodeCommand [0x05] = .ok .readByteAck ∧ touchesBus .readByteAck = true ∧ s.cr.en = true ∧
      admittedIn .readByteAck s.fs s.dir = false) :=
  ⟨⟨withTurns [.issue [0x0C]] (executing .sendStart 1 .idle .w), by decide⟩,
   ⟨withTurns [.issue [0x0C]] enabled, by decide⟩,
   ⟨withTurns [.issue [0x01, 0, 0, 0, 0, 0, 0]] State.reset, by decide⟩,
   ⟨withTurns [.issue [0x05]] State.reset, by decide⟩, ⟨withTurns [.issue [0x05]] enabled, by decide⟩⟩

theorem witness_FaultChangesOnlyFlt :
    (∃ (s t : State) (r : Fault), s.flt = none ∧ step s = .next t ∧ t.flt = some r) ∧
    (∃ (s : State) (r : Fault), s.flt = some r ∧ s.schedule.head? ≠ some .reset) ∧
    (∃ s : State, s.schedule = [.reset] ∧ s.flt ≠ none) :=
  ⟨⟨withTurns [.issue [0x02]] State.reset, _, .notEnabled .sendStart, rfl, rfl, rfl⟩,
   ⟨State.reset.raise (.notEnabled .sendStart), _, rfl, by decide⟩,
   ⟨withTurns [.reset] (State.reset.raise (.notEnabled .sendStart)), by decide⟩⟩

/-- The ends of the divisor's range. -/
theorem witness_ProgrammedFrequencyNotBelowRequested :
    divisor 1600000 100 = some 0 ∧ divisor 52799999 100 = some 255 := by decide

/-- A reserved write, for the second clause. -/
theorem witness_ControlWriteDecode : enabled.writeCR 0x84 = .error (.illegalControl 0x84 .idle .w) := rfl

theorem witness_EnableActions : State.reset.flt = none := rfl

/-- The condition of each trigger, at `k = 0` and above. -/
theorem witness_TriggerActions :
    (enabled.flt = none ∧ enabled.fs = .idle) ∧
    ((inFrame .started .w).flt = none ∧ (inFrame .started .w).fs = .started) ∧
    ((inFrame (.dataPhase 0) .w).fs = .dataPhase 0 ∧ (inFrame (.dataPhase 0) .w).dir = .w) ∧
    ((inFrame (.dataPhase 9) .r).fs = .dataPhase 9 ∧ (inFrame (.dataPhase 9) .r).dir = .r) := by decide

/-- Each clause, in each state R100 names for it; with a command executing and an operation pending too. -/
theorem witness_ReservedControlRaises :
    (∀ v ∈ ([0x00, 0x05, 0x24, 0x80, 0xE4] : List Byte), v ∉ ([0x04, 0x44, 0xA4, 0x94, 0x84, 0xC4] : List Byte)) ∧
    (∀ s ∈ [inFrame .started .w, inFrame .addressPhase .w, inFrame (.dataPhase 0) .w, inFrame .stopped .w],
      s.flt = none ∧ s.fs ≠ .idle) ∧
    (∀ s ∈ [enabled, waiting (.writeByte 0x20) 2 .addressPhase .w .txAddr, inFrame .stopped .w],
      s.flt = none ∧ (s.fs = .idle ∨ s.fs = .addressPhase ∨ s.fs = .stopped)) ∧
    (∀ s ∈ [enabled, inFrame .started .r, waiting (.writeByte 0x21) 2 .addressPhase .r .txAddr, inFrame (.dataPhase 0) .w,
      inFrame .stopped .r], s.flt = none ∧ ¬ (s.dir = .r ∧ s.fs.isData = true)) ∧
    (withTurns [.control 0xC4] (waiting (.writeByte 0x21) 2 .addressPhase .r .txAddr)).schedule = [.control 0xC4] := by
  decide

theorem witness_StartCompletion :
    ∀ r ∈ [StartAnswer.done, .busErr],
      let s := withTurns [.answer (.start r)] (waiting .sendStart 2 .idle .w .start)
      s.flt = none ∧ s.pend = .start ∧ s.schedule = [.answer (.start r)] := by decide

theorem witness_AddressByteCompletion :
    ∀ r ∈ [TxAnswer.ack, .nack, .arbLost, .busErr],
      let s := withTurns [.answer (.tx r)] (waiting (.writeByte 0x21) 2 .addressPhase .w .txAddr)
      s.flt = none ∧ s.pend = .txAddr ∧ s.schedule = [.answer (.tx r)] := by decide

theorem witness_DataByteCompletion :
    ∀ r ∈ [TxAnswer.ack, .nack, .arbLost, .busErr],
      let s := withTurns [.answer (.tx r)] (waiting (.writeByte 0x21) 2 (.dataPhase 0) .w .txData)
      s.flt = none ∧ s.pend = .txData ∧ s.fs = .dataPhase 0 ∧ s.schedule = [.answer (.tx r)] := by decide

theorem witness_ReceiveCompletion :
    ∀ o ∈ [RxOutcome.normal, .arbLost, .busErr],
      let s := withTurns [.answer (.rx o 0xFF)] (waiting .readByteAck 2 (.dataPhase 0) .r .rx)
      s.flt = none ∧ s.pend = .rx ∧ s.fs = .dataPhase 0 ∧ s.schedule = [.answer (.rx o 0xFF)] := by decide

theorem witness_StopCompletion :
    (let s := withTurns [.stopCompletion] (inFrame .stopped .w)
     s.flt = none ∧ s.fs = .stopped ∧ s.schedule = [.stopCompletion]) ∧
    (let s := inFrame .stopped .w
     s.flt = none ∧ s.fs = .stopped ∧ s.schedule = [] ∧ s.sequencerEnabled = false) := by decide

/-- What every statement about a micro-step supposes. -/
abbrev atStep (i : Instr) (mpc : Nat) (s : State) : Prop :=
  s.flt = none ∧ s.seq.busy = true ∧ s.seq.cmd = i ∧ s.seq.mpc = mpc

theorem witness_InitializeSteps :
    divisor 8000000 100 = some 32 ∧
      atStep (.initializeBus 8000000 100) 1 (executing (.initializeBus 8000000 100) 1 .idle .w) := by decide

theorem witness_SendStartSteps :
    (atStep .sendStart 1 (executing .sendStart 1 .idle .w) ∧ (executing .sendStart 1 .idle .w).fs = .idle) ∧
    (atStep .sendStart 2 (executing .sendStart 2 .started .w) ∧ (executing .sendStart 2 .started .w).cr.rdy = true) := by
  decide

theorem witness_SendStopSteps :
    (atStep .sendStop 1 (executing .sendStop 1 .started .w) ∧ (executing .sendStop 1 .started .w).fs = .started) ∧
    (atStep .sendStop 1 (executing .sendStop 1 (.dataPhase 0) .r) ∧
      (executing .sendStop 1 (.dataPhase 0) .r).fs = .dataPhase 0) := by decide

theorem witness_WriteByteSteps :
    (atStep (.writeByte 0) 1 (executing (.writeByte 0) 1 .started .r)) ∧
    (let s := executing (.writeByte 0) 1 (.dataPhase 0) .w
     atStep (.writeByte 0) 1 s ∧ s.fs = .dataPhase 0 ∧ s.dir = .w) ∧
    (let s := executing (.writeByte 0) 2 (.dataPhase 0) .w
     atStep (.writeByte 0) 2 s ∧ s.cr.rdy = true) := by decide

theorem witness_ReadByteSteps :
    ∀ i ∈ [Instr.readByteAck, .readByteNoAck],
      (let s := executing i 1 (.dataPhase 0) .r
       atStep i 1 s ∧ s.fs = .dataPhase 0 ∧ s.dir = .r) ∧
      (let s := executing i 2 (.dataPhase 1) .r
       atStep i 2 s ∧ s.cr.rdy = true) := by decide

theorem witness_RegisterOwnAddressSteps :
    atStep (.registerOwnAddress 0x7F) 1 (executing (.registerOwnAddress 0x7F) 1 .stopped .w) := by decide

theorem witness_WriteByteToSteps :
    let i := Instr.writeByteTo 0 0
    (atStep i 1 (executing i 1 .idle .w) ∧ (executing i 1 .idle .w).fs = .idle) ∧
    (atStep i 2 (executing i 2 .started .w) ∧ (executing i 2 .started .w).cr.rdy = true) ∧
    (let s := executing i 3 (.dataPhase 0) .w
     atStep i 3 s ∧ s.cr.rdy = true ∧ s.fs = .dataPhase 0 ∧ s.dir = .w) ∧
    (let s := executing i 4 (.dataPhase 1) .w
     atStep i 4 s ∧ s.cr.rdy = true ∧ s.fs = .dataPhase 1) := by decide

theorem witness_ReadByteFromSteps :
    let i := Instr.readByteFrom 0x7F
    (atStep i 1 (executing i 1 .idle .w) ∧ (executing i 1 .idle .w).fs = .idle) ∧
    (atStep i 2 (executing i 2 .started .w) ∧ (executing i 2 .started .w).cr.rdy = true) ∧
    (let s := executing i 3 (.dataPhase 0) .r
     atStep i 3 s ∧ s.cr.rdy = true ∧ s.fs = .dataPhase 0 ∧ s.dir = .r) ∧
    (let s := executing i 4 (.dataPhase 1) .r
     atStep i 4 s ∧ s.cr.rdy = true ∧ s.fs = .dataPhase 1) := by decide

/-- `writeBuffer` of one byte at step 3, with the given index and status code. -/
def bufferWrite (idx : Nat) (code : BitVec 5) : State :=
  { executing (.writeBuffer 0x50 [0x11]) 3 (.dataPhase 0) .w with
    srCode := code
    seq := ⟨true, .writeBuffer 0x50 [0x11], 3, idx, true, [], 0⟩ }

theorem witness_WriteBufferSteps :
    let i := Instr.writeBuffer 0x50 [0x11]
    (atStep i 1 (executing i 1 .idle .w) ∧ (executing i 1 .idle .w).fs = .idle) ∧
    (atStep i 2 (executing i 2 .started .w) ∧ (executing i 2 .started .w).cr.rdy = true) ∧
    (let s := bufferWrite 1 4
     atStep i 3 s ∧ s.cr.rdy = true ∧ s.fs = .dataPhase 0 ∧ (s.seq.ok && ackOk (s.readSR &&& 0xF8)) = false) ∧
    (let s := bufferWrite 2 3
     atStep i 3 s ∧ s.cr.rdy = true ∧ s.fs = .dataPhase 0 ∧ (s.seq.ok && ackOk (s.readSR &&& 0xF8)) = true ∧
      s.seq.idx = [(0x11 : Byte)].length + 1) ∧
    (let s := bufferWrite 1 3
     atStep i 3 s ∧ s.cr.rdy = true ∧ s.fs = .dataPhase 0 ∧ s.dir = .w ∧
      (s.seq.ok && ackOk (s.readSR &&& 0xF8)) = true ∧ (sla 0x50 .w :: [(0x11 : Byte)])[s.seq.idx]? = some 0x11) := by
  decide

/-- `readBuffer` of two bytes at step 4, with the given index. -/
def bufferRead (idx : Nat) : State :=
  { executing (.readBuffer 0x50 2) 4 (.dataPhase 1) .r with seq := ⟨true, .readBuffer 0x50 2, 4, idx, true, [], 0⟩ }

theorem witness_ReadBufferSteps :
    let i := Instr.readBuffer 0x50 2
    (atStep i 1 (executing i 1 .idle .w) ∧ (executing i 1 .idle .w).fs = .idle) ∧
    (atStep i 2 (executing i 2 .started .w) ∧ (executing i 2 .started .w).cr.rdy = true) ∧
    (let s := executing (.readBuffer 0x50 0) 3 (.dataPhase 0) .r
     atStep (.readBuffer 0x50 0) 3 s ∧ s.cr.rdy = true ∧ s.fs = .dataPhase 0) ∧
    (let s := executing i 3 (.dataPhase 0) .r
     atStep i 3 s ∧ s.cr.rdy = true ∧ s.fs = .dataPhase 0 ∧ s.dir = .r ∧ s.seq.idx = 0) ∧
    (let s := bufferRead 1
     atStep i 4 s ∧ s.cr.rdy = true ∧ s.fs = .dataPhase 1 ∧ s.seq.idx + 1 = 2) ∧
    (let s := bufferRead 0
     atStep i 4 s ∧ s.cr.rdy = true ∧ s.fs = .dataPhase 1 ∧ s.dir = .r ∧ s.seq.idx + 1 < 2) := by decide

theorem witness_ClosedGuardHolds :
    (let s := waiting .sendStart 2 .idle .w .start
     s.flt = none ∧ s.seq.busy = true ∧ s.seq.cmd.isCommand = true ∧ s.currentGuard = some .awaitRdy ∧ s.cr.rdy = false) ∧
    (let s := executing .sendStart 1 .stopped .w
     s.flt = none ∧ s.seq.busy = true ∧ s.seq.cmd.isCommand = true ∧ s.currentGuard = some .holdIdle ∧ s.fs ≠ .idle) := by
  decide

/-- `sendStart` waiting for its START: the states below meet every invariant, and step. -/
theorem waiting_engineInvariant (turns : List Turn) :
    EngineInvariant (withTurns turns (waiting .sendStart 2 .idle .w .start)) :=
  ⟨⟨nofun, nofun⟩, fun _ => rfl, nofun, nofun, fun _ => rfl, fun _ _ => rfl, fun h => absurd rfl h, fun _ => rfl,
   fun _ => rfl⟩

theorem witness_HangLasts :
    (∀ turns, EngineInvariant (withTurns turns (waiting .sendStart 2 .idle .w .start)) ∧
      (withTurns turns (waiting .sendStart 2 .idle .w .start)).awaitingBus) ∧
    (∀ t ∈ [Turn.sequencer, .stopCompletion], t = .sequencer ∨ t = .stopCompletion) :=
  ⟨fun turns => ⟨waiting_engineInvariant turns, rfl, rfl, nofun, rfl, rfl⟩, by decide⟩

/-- The START answered. -/
def answeredStart : State := withTurns [.answer (.start .done)] (waiting .sendStart 2 .idle .w .start)

/-- A host's next turn that is neither a raw write nor a command is orderly. -/
theorem answeredStart_orderly : answeredStart.orderly := by simp [State.orderly, answeredStart, withTurns]

/-- The given turn presented to a free block between transactions. -/
def presented (turn : Turn) : State := withTurns [turn] enabled

theorem presented_orderly (turn : Turn) : (presented turn).orderly := ⟨fun _ _ _ _ _ _ => ⟨rfl, rfl⟩, fun _ _ _ _ => rfl⟩

theorem presented_sequencerInvariant (turn : Turn) : SequencerInvariant (presented turn) :=
  ⟨⟨⟨nofun, nofun⟩, nofun, nofun, nofun, fun k => absurd rfl k, fun k => absurd rfl k, fun k => absurd rfl k,
    fun _ => rfl, nofun⟩, nofun⟩

/-- An answer, a raw START and a command, each of an orderly host. -/
theorem witness_EngineInvariantKept :
    (EngineInvariant answeredStart ∧ answeredStart.orderly ∧ ∃ t, step answeredStart = .next t) ∧
    (∀ turn ∈ [Turn.control 0xA4, .issue [0x02]],
      EngineInvariant (presented turn) ∧ (presented turn).orderly) ∧
    (∃ t, step (presented (.control 0xA4)) = .next t ∧ t.pend = .start) ∧
    (∃ t, step (presented (.issue [0x02])) = .next t ∧ t.seq.busy = true) :=
  ⟨⟨waiting_engineInvariant _, answeredStart_orderly, _, rfl⟩,
   fun turn _ => ⟨(presented_sequencerInvariant turn).engine, presented_orderly turn⟩, ⟨_, rfl, rfl⟩, ⟨_, rfl, rfl⟩⟩

theorem witness_CommandInvariantKept : CommandInvariant answeredStart ∧ ∃ t, step answeredStart = .next t :=
  ⟨⟨waiting_engineInvariant _, fun _ => rfl, by simp [State.commandsOnly, answeredStart, withTurns]⟩, _, rfl⟩

theorem answeredStart_sequencerInvariant : SequencerInvariant answeredStart :=
  ⟨waiting_engineInvariant _, fun _ => .inl rfl⟩

theorem witness_SequencerStaysInPhase :
    (SequencerInvariant answeredStart ∧ answeredStart.orderly ∧ ∃ t, step answeredStart = .next t) ∧
    (SequencerInvariant (presented (.issue [0x02])) ∧ (presented (.issue [0x02])).orderly ∧
      ∃ t, step (presented (.issue [0x02])) = .next t ∧ t.seq.busy = true) :=
  ⟨⟨answeredStart_sequencerInvariant, answeredStart_orderly, _, rfl⟩,
   presented_sequencerInvariant _, presented_orderly _, _, rfl, rfl⟩

/-- A sequencer turn, the block's own step, and a raw write that faults. -/
theorem witness_CommandsNeverRaiseIllegalControl :
    (∃ s t : State, SequencerInvariant s ∧ s.flt = none ∧ step s = .next t ∧ s.schedule = [.sequencer]) ∧
    (∃ s t : State, SequencerInvariant s ∧ s.flt = none ∧ step s = .next t ∧ s.schedule = []) ∧
    (∃ s t : State, SequencerInvariant s ∧ s.flt = none ∧ step s = .next t ∧
      t.flt = some (.illegalControl 0 .idle .w)) :=
  ⟨⟨withTurns [.sequencer] (waiting .sendStart 2 .idle .w .start), _,
     ⟨waiting_engineInvariant _, fun _ => .inl rfl⟩, rfl, rfl, rfl⟩,
   ⟨withTurns [] (waiting .sendStart 2 .idle .w .start), _,
     ⟨waiting_engineInvariant _, fun _ => .inl rfl⟩, rfl, rfl, rfl⟩,
   ⟨withTurns [.control 0] State.reset, _,
     ⟨⟨⟨nofun, nofun⟩, nofun, nofun, nofun, fun h => absurd rfl h, fun h => absurd rfl h, fun h => absurd rfl h,
       fun h => absurd rfl h, nofun⟩, nofun⟩, rfl, rfl, rfl⟩⟩

theorem witness_TraceFramingKept :
    EngineInvariant answeredStart ∧ answeredStart.framed ∧ ∃ t, step answeredStart = .next t :=
  ⟨waiting_engineInvariant _, rfl, _, rfl⟩

/-- A transition that is not the identity. -/
theorem witness_FramingTransitions :
    EngineInvariant answeredStart ∧ answeredStart.schedule.head? ≠ some .reset ∧
      ∃ t, step answeredStart = .next t ∧ t.fs ≠ answeredStart.fs :=
  ⟨waiting_engineInvariant _, by decide, _, rfl, by decide⟩

theorem witness_ReadyRisesOnlyOnCompletion :
    (∃ t, step answeredStart = .next t ∧ answeredStart.cr.rdy = false ∧ t.cr.rdy = true) ∧
    (∃ t, enabled.writeCR 0xA4 = .ok t) ∧ (∃ t, enabled.writeCR 0x04 = .ok t) :=
  ⟨⟨_, rfl, rfl, rfl⟩, ⟨_, rfl⟩, ⟨_, rfl⟩⟩

theorem witness_EnabledStaysEnabled :
    ∃ t, step answeredStart = .next t ∧ answeredStart.schedule.head? ≠ some .reset ∧ answeredStart.cr.en = true :=
  ⟨_, rfl, by decide, rfl⟩

/-- Each of the two registers changes in some step. -/
theorem witness_BitRateAndOwnAddressWriters :
    (∃ s t : State, step s = .next t ∧ s.schedule.head? ≠ some .reset ∧ t.brr ≠ s.brr) ∧
    (∃ s t : State, step s = .next t ∧ s.schedule.head? ≠ some .reset ∧ t.oar ≠ s.oar) :=
  ⟨⟨executing (.initializeBus 16000000 400) 1 .idle .w, _, rfl, by decide, by decide⟩,
   ⟨executing (.registerOwnAddress 0x42) 1 .idle .w, _, rfl, by decide, by decide⟩⟩

theorem witness_BitRateAndOwnAddressUnread :
    (∃ s t : State, step s = .next t) ∧ (∃ (s : State) (r : Fault), step s = .fault r) :=
  ⟨⟨answeredStart, _, rfl⟩, ⟨State.reset.raise (.notEnabled .sendStart), _, rfl⟩⟩

theorem witness_HistoriesOnlyGrow :
    ∃ s t : State, step s = .next t ∧ s.schedule.head? ≠ some .reset ∧ s.abn = true :=
  ⟨{ answeredStart with abn := true }, _, rfl, by decide, rfl⟩

/-- A step that responds. -/
theorem witness_OneResponsePerCommand :
    ∃ s t : State, step s = .next t ∧ s.schedule.head? ≠ some .reset ∧ s.seq.busy = true ∧ t.seq.busy = false :=
  ⟨executing .sendStart 2 .started .w, _, rfl, by decide, rfl, rfl⟩

theorem witness_StopCompletionCommutes :
    (∀ p ∈ [(([0x02] : List Byte), Instr.sendStart), ([0x0B, 0x10, 0x00], .readBuffer 0x10 0)],
      let s := inFrame .stopped .w
      s.flt = none ∧ s.seq.busy = false ∧ s.fs = .stopped ∧ reads p.1 = some p.2 ∧
        admission p.2 s = none) ∧
    (let s := executing (.initializeBus 8000000 100) 1 .stopped .w
     s.flt = none ∧ s.seq.busy = true ∧ s.seq.mpc = 1 ∧ s.fs = .stopped ∧
      s.seq.cmd = .initializeBus 8000000 100 ∧ divisor 8000000 100 ≠ none) ∧
    (let s := executing (.registerOwnAddress 0x42) 1 .stopped .w
     s.flt = none ∧ s.seq.busy = true ∧ s.seq.mpc = 1 ∧ s.fs = .stopped ∧ s.seq.cmd = .registerOwnAddress 0x42) := by
  decide

/-- Nothing executing, nothing pending, in a framing state, the block driven by commands: every invariant holds. -/
theorem inFrame_invariants (fs : Framing) (dir : Dir) (h : fs ≠ .addressPhase) :
    CommandInvariant (inFrame fs dir) ∧ SequencerInvariant (inFrame fs dir) := by
  have e : EngineInvariant (inFrame fs dir) :=
    ⟨⟨nofun, fun k => absurd k h⟩, nofun, nofun, nofun, fun k => absurd rfl k, fun k => absurd rfl k, fun _ => rfl,
     fun _ => rfl, nofun⟩
  exact ⟨⟨e, fun k => absurd rfl k, by simp [State.commandsOnly, inFrame, enabled, State.reset]⟩, ⟨e, nofun⟩⟩

/-- A final state, a state left open, a hung state, each with every invariant; a faulted one; a STOP in progress. -/
theorem witness_QuiescentStatesClassified :
    (CommandInvariant enabled ∧ SequencerInvariant enabled ∧ enabled.final) ∧
    (CommandInvariant (inFrame .started .w) ∧ SequencerInvariant (inFrame .started .w) ∧
      (inFrame .started .w).leftOpen) ∧
    (let s := withTurns [] (waiting .sendStart 2 .idle .w .start)
     CommandInvariant s ∧ SequencerInvariant s ∧ s.hung ∧ s.awaitingBus) ∧
    (State.reset.raise (.notEnabled .sendStart)).quiescent ∧
    ((inFrame .stopped .w).flt = none ∧ (inFrame .stopped .w).fs = .stopped) :=
  ⟨⟨(inFrame_invariants .idle .w nofun).1, (inFrame_invariants .idle .w nofun).2,
      ⟨rfl, .inr ⟨by decide, by decide⟩⟩, rfl, rfl, rfl, rfl⟩,
   ⟨(inFrame_invariants .started .w nofun).1, (inFrame_invariants .started .w nofun).2,
      ⟨rfl, .inr ⟨by decide, by decide⟩⟩, rfl, rfl, .inl rfl⟩,
   ⟨⟨waiting_engineInvariant _, fun _ => rfl, by simp [State.commandsOnly, withTurns]⟩,
      ⟨waiting_engineInvariant _, fun _ => .inl rfl⟩,
      ⟨⟨rfl, .inr ⟨by decide, by decide⟩⟩, rfl, rfl, .inl ⟨rfl, rfl⟩⟩, rfl, rfl, nofun, rfl, rfl⟩,
   ⟨rfl, .inl nofun⟩, rfl, rfl⟩

theorem witness_ByteTransactionRuns : enabled.ready := ⟨rfl, rfl, rfl, rfl, rfl⟩

/-- Payloads at both ends of their range, and the three kinds of failing answer. -/
theorem witness_WriteBufferRun :
    enabled.ready ∧ (Instr.writeBuffer 0x50 []).wellFormed = true ∧
    (Instr.writeBuffer 0x50 (List.replicate 255 0)).wellFormed = true ∧
    (Instr.writeBuffer 0x50 ([0x00] ++ 0x11 :: [0x22])).wellFormed = true ∧
    (∀ r ∈ [TxAnswer.nack, .arbLost, .busErr], r ≠ .ack) :=
  ⟨⟨rfl, rfl, rfl, rfl, rfl⟩, by decide, by simp only [Instr.wellFormed, List.length_replicate]; decide, by decide,
   by decide⟩

/-- Lengths at both ends of their range. -/
theorem witness_ReadBufferRun :
    enabled.ready ∧ (Instr.readBuffer 0x10 ([] : List (RxOutcome × Byte)).length).wellFormed = true ∧
    (Instr.readBuffer 0x10 (List.replicate 255 (RxOutcome.normal, (0 : Byte))).length).wellFormed = true :=
  ⟨⟨rfl, rfl, rfl, rfl, rfl⟩, by decide, by simp only [Instr.wellFormed, List.length_replicate]; decide⟩

theorem witness_ByteTransactionsEqualPrimitives : enabled.ready := ⟨rfl, rfl, rfl, rfl, rfl⟩

/-- Payloads at both ends of their range, and the three kinds of failing answer. -/
theorem witness_WriteBufferEqualsPrimitives :
    enabled.ready ∧ (Instr.writeBuffer 0x50 []).wellFormed = true ∧
    (Instr.writeBuffer 0x50 (List.replicate 255 0)).wellFormed = true ∧
    (Instr.writeBuffer 0x50 ([] ++ 0x11 :: [])).wellFormed = true ∧
    (∀ r ∈ [TxAnswer.nack, .arbLost, .busErr], r ≠ .ack) :=
  ⟨⟨rfl, rfl, rfl, rfl, rfl⟩, by decide, by simp only [Instr.wellFormed, List.length_replicate]; decide, by decide,
   by decide⟩

theorem witness_ReadBufferEqualsPrimitives :
    enabled.ready ∧ (Instr.readBuffer 0x10 [(RxOutcome.normal, (0x5A : Byte))].length).wellFormed = true :=
  ⟨⟨rfl, rfl, rfl, rfl, rfl⟩, by decide⟩

end Sys2Proof.Tests
end

section
/-! PROOFS. The state: the invariants of 10_state.md R41, and what a step leaves of the registers and the histories
(R20 to R37). A first part says once what each kind of step leaves unchanged; the invariants and the whole-machine rules
are then read off, kind of step by kind of step. -/

namespace Sys2Proof.Machine

open Sys2Proof

variable {s t : State}

/-! ### What the engine leaves unchanged -/

@[simp] theorem State.takeAnswer_brr (s : State) (a : Answer) : (s.takeAnswer a).brr = s.brr := by
  unfold State.takeAnswer; split <;> rfl

@[simp] theorem State.takeAnswer_oar (s : State) (a : Answer) : (s.takeAnswer a).oar = s.oar := by
  unfold State.takeAnswer; split <;> rfl

@[simp] theorem State.takeAnswer_en (s : State) (a : Answer) : (s.takeAnswer a).cr.en = s.cr.en := by
  unfold State.takeAnswer; split <;> rfl

@[simp] theorem State.takeAnswer_seq (s : State) (a : Answer) : (s.takeAnswer a).seq = s.seq := by
  unfold State.takeAnswer; split <;> rfl

@[simp] theorem State.takeAnswer_out (s : State) (a : Answer) : (s.takeAnswer a).out = s.out := by
  unfold State.takeAnswer; split <;> rfl

@[simp] theorem State.takeAnswer_schedule (s : State) (a : Answer) : (s.takeAnswer a).schedule = s.schedule := by
  unfold State.takeAnswer; split <;> rfl

/-- An answer either does nothing or completes the pending operation, with one event (R182 to R188). -/
theorem State.takeAnswer_completes (s : State) (a : Answer) :
    s.takeAnswer a = s ∨
      (s.pend ≠ .none ∧ (s.takeAnswer a).pend = .none ∧ (∃ e, (s.takeAnswer a).trace = s.trace ++ [e]) ∧
        (s.abn = true → (s.takeAnswer a).abn = true)) := by
  obtain h | ⟨r, hp, -, h⟩ | ⟨r, hp, -, h⟩ | ⟨r, k, hp, -, -, h⟩ | ⟨o, b, k, hp, -, -, h⟩ := s.takeAnswer_cases a
  · exact .inl h
  all_goals right; rw [h]; simp +contextual [hp]

@[simp] theorem State.takeStopCompletion_brr (s : State) : s.takeStopCompletion.brr = s.brr := by
  unfold State.takeStopCompletion; split <;> rfl

@[simp] theorem State.takeStopCompletion_oar (s : State) : s.takeStopCompletion.oar = s.oar := by
  unfold State.takeStopCompletion; split <;> rfl

@[simp] theorem State.takeStopCompletion_cr (s : State) : s.takeStopCompletion.cr = s.cr := by
  unfold State.takeStopCompletion; split <;> rfl

@[simp] theorem State.takeStopCompletion_pend (s : State) : s.takeStopCompletion.pend = s.pend := by
  unfold State.takeStopCompletion; split <;> rfl

@[simp] theorem State.takeStopCompletion_seq (s : State) : s.takeStopCompletion.seq = s.seq := by
  unfold State.takeStopCompletion; split <;> rfl

@[simp] theorem State.takeStopCompletion_abn (s : State) : s.takeStopCompletion.abn = s.abn := by
  unfold State.takeStopCompletion; split <;> rfl

@[simp] theorem State.takeStopCompletion_out (s : State) : s.takeStopCompletion.out = s.out := by
  unfold State.takeStopCompletion; split <;> rfl

@[simp] theorem State.takeStopCompletion_schedule (s : State) : s.takeStopCompletion.schedule = s.schedule := by
  unfold State.takeStopCompletion; split <;> rfl

/-! ### What an accepted control write leaves unchanged -/

section
variable {v : Byte} (h : s.writeCR v = .ok t)
include h

theorem State.writeCR_brr : t.brr = s.brr := by rw [(State.writeCR_frame h).1]
theorem State.writeCR_oar : t.oar = s.oar := by rw [(State.writeCR_frame h).1]
theorem State.writeCR_abn : t.abn = s.abn := by rw [(State.writeCR_frame h).1]
theorem State.writeCR_trace : t.trace = s.trace := by rw [(State.writeCR_frame h).1]
theorem State.writeCR_out : t.out = s.out := by rw [(State.writeCR_frame h).1]
theorem State.writeCR_keeps_schedule : t.schedule = s.schedule := by rw [(State.writeCR_frame h).1]
theorem State.writeCR_en : t.cr.en = true := (State.writeCR_frame h).2.1
theorem State.writeCR_rdy : t.cr.rdy = (s.cr.rdy && !v.getLsbD 7) := (State.writeCR_frame h).2.2

end

/-! ### What a command's move leaves unchanged -/

namespace CommandMove

variable (h : CommandMove s t)
include h

theorem abn_eq : t.abn = s.abn := by cases h <;> rfl
theorem trace_eq : t.trace = s.trace := by cases h <;> rfl
theorem schedule_eq : t.schedule = s.schedule := by cases h <;> rfl
theorem cmd_eq : t.seq.cmd = s.seq.cmd := by cases h <;> first | rfl | assumption

theorem en_of_en (he : s.cr.en = true) : t.cr.en = true := by cases h <;> first | rfl | exact he

/-- No move of a command raises `RDY`. -/
theorem rdy_of_rdy (hr : t.cr.rdy = true) : s.cr.rdy = true := by
  cases h <;> first | exact hr | cases hr

theorem out_grows : t.out = s.out ∨ ∃ r, t.out = s.out ++ [r] := by
  cases h
  case hold | trigger => exact .inl rfl
  all_goals exact .inr ⟨_, rfl⟩

theorem brr_writer (hb : t.brr ≠ s.brr) :
    ∃ c f d, s.seq.cmd = .initializeBus c f ∧ divisor c f = some d ∧ t.brr = BitVec.ofNat 8 d := by
  cases h
  case configure which =>
    obtain ⟨c, f, d, hc, hd, rfl, -⟩ | ⟨a, -, rfl, -⟩ := which
    · exact ⟨c, f, d, hc, hd, rfl⟩
    · exact absurd rfl hb
  all_goals exact absurd rfl hb

theorem oar_writer (ho : t.oar ≠ s.oar) : ∃ a, s.seq.cmd = .registerOwnAddress a ∧ t.oar = ownAddressByte a := by
  cases h
  case configure which =>
    obtain ⟨c, f, d, -, -, -, rfl⟩ | ⟨a, hc, -, rfl⟩ := which
    · exact absurd rfl ho
    · exact ⟨a, hc, rfl⟩
  all_goals exact absurd rfl ho

end CommandMove

/-! ### What a step does, whatever turn it plays -/

/-- The state a step acts on: the head turn is consumed. -/
def State.consumeTurn (s : State) : State := { s with schedule := s.schedule.tail }

/-- What a step that is no reset does to the state it acts on. It says less than `Move`: not which turn, nor that the
block is live. -/
inductive Effect (s : State) : State → Prop
  /-- Nothing, or a fault is raised. -/
  | keep (flt : Option Fault) : Effect s { s with flt := flt }
  | answer (a : Answer) : Effect s (s.takeAnswer a)
  | stopCompletion : Effect s s.takeStopCompletion
  | capture (i : Instr) : Effect s (s.capture i)
  | write (v : Byte) (t : State) (written : s.writeCR v = .ok t) : Effect s t
  | command (t : State) (busy : s.seq.busy = true) (move : CommandMove s t) : Effect s t

/-- A step is a reset or has an effect. -/
theorem step_effect (h : step s = .next t) :
    (∃ rest, s.schedule = .reset :: rest ∧ t = { State.reset with schedule := rest }) ∨ Effect s.consumeTurn t := by
  have tail {turn rest} (hs : s.schedule = turn :: rest) : { s with schedule := rest } = s.consumeTurn := by
    simp [State.consumeTurn, hs]
  cases step_cases h with
  | reset rest sched => exact .inl ⟨rest, sched, rfl⟩
  | raise r live => exact .inr (.keep (some r))
  | answer a rest live sched => rw [tail sched]; exact .inr (.answer a)
  | stop live => exact .inr .stopCompletion
  | idle live => exact .inr (.keep s.flt)
  | capture i bytes rest live sched => rw [tail sched]; exact .inr (.capture i)
  | control v rest _ live sched written => rw [tail sched] at written; exact .inr (.write v t written)
  | command _ live busy isCommand turn ran move => exact .inr (.command t busy move)
  | rawBusy _ live busy notCommand turn ran =>
    obtain ⟨r, rfl⟩ | ⟨v, written⟩ := exec_control_next notCommand ran
    · exact .inr (.keep (some r))
    · exact .inr (.write v t written)

/-- A step whose turn is no reset has an effect. -/
theorem step_effect_of_not_reset (h : step s = .next t) (hr : s.schedule.head? ≠ some .reset) :
    Effect s.consumeTurn t := by
  obtain ⟨rest, hs, -⟩ | h := step_effect h
  · simp [hs] at hr
  · exact h

namespace Effect

theorem schedule_eq (h : Effect s t) : t.schedule = s.schedule := by
  cases h with
  | keep | capture => rfl
  | answer a => simp
  | stopCompletion => simp
  | write v _ written => exact State.writeCR_keeps_schedule written
  | command _ busy move => exact move.schedule_eq

theorem en_of_en (h : Effect s t) (he : s.cr.en = true) : t.cr.en = true := by
  cases h with
  | keep | capture => exact he
  | answer a => simpa using he
  | stopCompletion => simpa using he
  | write v _ written => exact State.writeCR_en written
  | command _ busy move => exact move.en_of_en he

/-- Only the executing command's move can write `BRR` and `OAR`. -/
theorem rates_eq_or_move (h : Effect s t) :
    (t.brr = s.brr ∧ t.oar = s.oar) ∨ (s.seq.busy = true ∧ CommandMove s t) := by
  cases h with
  | keep | capture => exact .inl ⟨rfl, rfl⟩
  | answer a => exact .inl ⟨by simp, by simp⟩
  | stopCompletion => exact .inl ⟨by simp, by simp⟩
  | write v _ written => exact .inl ⟨State.writeCR_brr written, State.writeCR_oar written⟩
  | command _ busy move => exact .inr ⟨busy, move⟩

theorem trace_grows (h : Effect s t) : t.trace = s.trace ∨ ∃ e, t.trace = s.trace ++ [e] := by
  cases h with
  | keep | capture => exact .inl rfl
  | answer a =>
    obtain h | ⟨-, -, h, -⟩ := s.takeAnswer_completes a
    · exact .inl (by rw [h])
    · exact .inr h
  | stopCompletion =>
    obtain ⟨h, -⟩ | ⟨-, h⟩ := s.takeStopCompletion_cases
    · exact .inl (by rw [h])
    · exact .inr ⟨.stop, by rw [h]; rfl⟩
  | write v _ written => exact .inl (State.writeCR_trace written)
  | command _ busy move => exact .inl move.trace_eq

theorem out_grows (h : Effect s t) : t.out = s.out ∨ ∃ r, t.out = s.out ++ [r] := by
  cases h with
  | keep | capture => exact .inl rfl
  | answer a => exact .inl (by simp)
  | stopCompletion => exact .inl (by simp)
  | write v _ written => exact .inl (State.writeCR_out written)
  | command _ busy move => exact move.out_grows

theorem abn_of_abn (h : Effect s t) (ha : s.abn = true) : t.abn = true := by
  cases h with
  | keep | capture => exact ha
  | answer a =>
    obtain h | ⟨-, -, -, h⟩ := s.takeAnswer_completes a
    · rw [h]; exact ha
    · exact h ha
  | stopCompletion => simpa using ha
  | write v _ written => rw [State.writeCR_abn written]; exact ha
  | command _ busy move => rw [move.abn_eq]; exact ha

end Effect

/-- A step consumes the head turn, and touches no other. -/
theorem step_schedule (h : step s = .next t) : t.schedule = s.schedule.tail := by
  obtain ⟨rest, hs, rfl⟩ | h := step_effect h
  · rw [hs]; rfl
  · exact h.schedule_eq

/-! ### The engine invariant (R41) -/

/-- The pending operation is one the framing and the direction call for: items 1, 2, 3 of R41, read from `PEND`. -/
def State.pendingFits (s : State) : Prop :=
  (s.pend = .start ∧ s.fs = .idle) ∨ (s.pend = .txAddr ∧ s.fs = .addressPhase) ∨
    (s.pend = .txData ∧ s.dir = .w ∧ ∃ k, s.fs = .dataPhase k) ∨
    (s.pend = .rx ∧ s.dir = .r ∧ ∃ k, s.fs = .dataPhase k)

namespace EngineInvariant

/-- The invariant of a state with nothing pending. -/
theorem of_quiet (hp : s.pend = .none) (hfs : s.fs ≠ .addressPhase) (hen : s.fs ≠ .idle → s.cr.en = true)
    (hc : s.seq.busy = true → s.seq.cmd.isCommand = true) : EngineInvariant s := by
  constructor <;> simp_all

/-- The invariant of a state with an operation pending. -/
theorem of_pending (hp : s.pendingFits) (hen : s.cr.en = true) (hr : s.cr.rdy = false)
    (ha : s.seq.busy = true → s.currentGuard = some .awaitRdy)
    (hc : s.seq.busy = true → s.seq.cmd.isCommand = true) : EngineInvariant s := by
  obtain ⟨hp, hfs⟩ | ⟨hp, hfs⟩ | ⟨hp, hd, k, hfs⟩ | ⟨hp, hd, k, hfs⟩ := hp <;> constructor <;> simp_all

/-- The invariant does not look at `FLT` or at the turns to come. -/
theorem keep (h : EngineInvariant s) (flt : Option Fault) (schedule : List Turn) :
    EngineInvariant { s with flt := flt, schedule := schedule } := { h with }

theorem consumeTurn (h : EngineInvariant s) : EngineInvariant s.consumeTurn := h.keep s.flt s.schedule.tail

theorem reset (schedule : List Turn) : EngineInvariant { State.reset with schedule := schedule } :=
  of_quiet rfl nofun (fun h => absurd rfl h) nofun

/-- A STOP in progress excludes every pending operation. -/
theorem quiet_of_stopped (h : EngineInvariant s) (hfs : s.fs = .stopped) : s.pend = .none := by
  cases hp : s.pend with
  | none => rfl
  | start => simp [h.start_idle hp] at hfs
  | txAddr => simp [h.txAddr_iff.mp hp] at hfs
  | txData => obtain ⟨-, k, hk⟩ := h.txData_write hp; simp [hk] at hfs
  | rx => obtain ⟨-, k, hk⟩ := h.rx_read hp; simp [hk] at hfs

/-- A command at an open guard has nothing pending: with an operation pending it awaits `RDY`, which is clear. -/
theorem quiet_of_open (h : EngineInvariant s) (hb : s.seq.busy = true) {g : Guard} (hg : s.currentGuard = some g)
    (ho : g.isOpen s = true) : s.pend = .none := by
  by_contra hp
  obtain rfl : g = .awaitRdy := Option.some.inj (hg.symm.trans (h.pending_await hp hb))
  simp [Guard.isOpen, h.pending_notReady hp] at ho

/-- The address phase lasts while its byte is pending. -/
theorem not_addressPhase (h : EngineInvariant s) (hp : s.pend = .none) : s.fs ≠ .addressPhase := fun hfs => by
  simp [h.txAddr_iff.mpr hfs] at hp

theorem takeAnswer (h : EngineInvariant s) (a : Answer) : EngineInvariant (s.takeAnswer a) := by
  have en (hp : s.pend ≠ .none) : (s.takeAnswer a).cr.en = true := by simpa using h.pending_enabled hp
  have cmd : (s.takeAnswer a).seq.busy = true → (s.takeAnswer a).seq.cmd.isCommand = true := by
    simpa using h.busy_command
  obtain e | ⟨r, hp, -, e⟩ | ⟨r, hp, -, e⟩ | ⟨r, k, hp, -, -, e⟩ | ⟨o, b, k, hp, -, -, e⟩ := s.takeAnswer_cases a
  · rwa [e]
  all_goals
    rw [e] at en cmd ⊢
    exact of_quiet rfl (by simp) (fun _ => en (by simp [hp])) cmd

theorem takeStopCompletion (h : EngineInvariant s) : EngineInvariant s.takeStopCompletion := by
  obtain ⟨e, -⟩ | ⟨hfs, e⟩ := s.takeStopCompletion_cases <;> rw [e]
  · exact h
  · exact of_quiet (h.quiet_of_stopped hfs) (by simp) (by simp) h.busy_command

/-- A command captured with nothing pending. -/
theorem capture (h : EngineInvariant s) {i : Instr} (hi : i.isCommand = true) (hp : s.pend = .none) :
    EngineInvariant (s.capture i) :=
  of_quiet hp (h.not_addressPhase hp) h.open_enabled fun _ => hi

/-- An accepted control write that triggers nothing, or comes with nothing pending and no command executing (R180). -/
theorem writeCR (h : EngineInvariant s) {v : Byte} (hw : s.writeCR v = .ok t)
    (free : v.getLsbD 7 = true → s.pend = .none ∧ s.seq.busy = false) : EngineInvariant t := by
  obtain ⟨h2, ⟨h7, rfl⟩ | ⟨h7, hw⟩⟩ := State.writeCR_cases hw
  · exact { h with
      pending_notReady := fun hp => by simp [h.pending_notReady hp]
      open_enabled := fun _ => h2
      pending_enabled := fun _ => h2 }
  · obtain ⟨hp, hb⟩ := free h7
    obtain ⟨hfs, rfl⟩ | ⟨-, rfl⟩ | ⟨-, rfl⟩ | ⟨hd, hfs, rfl⟩ | ⟨hd, hfs, rfl⟩ := hw
    case inr.inr.inl => exact of_quiet hp (by simp) (fun _ => h2) h.busy_command
    all_goals
      refine of_pending ?_ h2 (by simp [h7]) (by simp [hb]) h.busy_command
      simp [State.pendingFits, *]

/-- The executing command's turn. -/
theorem commandMove (h : EngineInvariant s) (hb : s.seq.busy = true) (hm : CommandMove s t) : EngineInvariant t := by
  have hc : t.seq.cmd.isCommand = true := hm.cmd_eq ▸ h.busy_command hb
  cases hm with
  | hold => exact h
  | respond sq ok payload cmd busy ready =>
    have hp : s.pend = .none := by
      by_contra hp; simp [h.pending_notReady hp] at ready
    exact of_quiet hp (h.not_addressPhase hp) h.open_enabled fun _ => hc
  | configure brr oar ack sq cmd busy guard =>
    have hp := h.quiet_of_open hb guard rfl
    exact of_quiet hp (h.not_addressPhase hp) (fun _ => rfl) fun _ => hc
  | stop sq ok payload cmd busy guard =>
    obtain ⟨g, hg, ho⟩ := guard
    exact of_quiet (h.quiet_of_open hb hg ho) nofun (fun _ => rfl) fun _ => hc
  | trigger dr acken sta pend fs sq cmd busy guard next which =>
    refine of_pending ?_ rfl rfl (fun _ => next) fun _ => hc
    obtain ⟨hp, hfs, rfl, -⟩ | ⟨hp, -, rfl⟩ | ⟨hp, hd, hfs, rfl⟩ | ⟨hp, hd, hfs, rfl⟩ := which <;>
      simp [State.pendingFits, *]

end EngineInvariant

/-- The premise on the host, as the accepted write of a step has it: the write is made with its turn consumed. -/
theorem State.orderly.quiet_of_written {v : Byte} {rest : List Turn} (ho : s.orderly)
    (hs : s.schedule = .control v :: rest) (hw : { s with schedule := rest }.writeCR v = .ok t)
    (h7 : v.getLsbD 7 = true) : s.pend = .none ∧ s.seq.busy = false := by
  rw [State.writeCR_schedule] at hw
  obtain ⟨u, hu, -⟩ := map_ok hw
  exact ho.1 v rest u hs h7 hu

/-- Settles O41: every kind of move keeps the invariant; a raw write and a capture use the orderly host. -/
theorem engineInvariantKept : Obligations.EngineInvariantKept := by
  intro s t h ho hstep
  cases step_cases hstep with
  | reset rest => exact .reset rest
  | raise r live => exact h.keep (some r) _
  | answer a rest => exact (h.keep s.flt rest).takeAnswer a
  | stop live => exact h.consumeTurn.takeStopCompletion
  | idle live => exact h.consumeTurn
  | capture i bytes rest live sched free decodes =>
    exact (h.keep s.flt rest).capture (decodeCommand_isCommand decodes) (ho.2 bytes rest sched free)
  | control v rest _ live sched written =>
    exact (h.keep s.flt rest).writeCR written (ho.quiet_of_written sched written)
  | command _ live busy isCommand turn ran move => exact h.consumeTurn.commandMove busy move
  | rawBusy _ live busy notCommand => simp [h.busy_command busy] at notCommand

/-! ### The command invariant (R41) -/

/-- A block driven by commands always meets the premise on the host. -/
theorem CommandInvariant.orderly (h : CommandInvariant s) : s.orderly := by
  refine ⟨fun v rest t hs => absurd (hs ▸ List.mem_cons_self) (h.commandsOnly v), fun bytes rest hs hb => ?_⟩
  by_contra hp
  simp [h.pending_busy hp] at hb

theorem State.commandsOnly.step (h : s.commandsOnly) (hstep : step s = .next t) : t.commandsOnly := fun v hv =>
  h v (List.mem_of_mem_tail (step_schedule hstep ▸ hv))

/-- A move of the executing command leaves nothing pending when it responds. -/
theorem EngineInvariant.pending_busy_of_move (h : EngineInvariant s) (hb : s.seq.busy = true) (hm : CommandMove s t)
    (hp : t.pend ≠ .none) : t.seq.busy = true := by
  cases hm with
  | hold => exact hb
  | trigger dr acken sta pend fs sq cmd busy => exact busy.trans hb
  | respond sq ok payload cmd busy ready => simp [h.pending_notReady hp] at ready
  | configure brr oar ack sq cmd busy guard => exact absurd (h.quiet_of_open hb guard rfl) hp
  | stop sq ok payload cmd busy guard =>
    obtain ⟨g, hg, ho⟩ := guard
    exact absurd (h.quiet_of_open hb hg ho) hp

/-- Item 4 of R41: a pending operation belongs to a busy command, after every step. -/
theorem CommandInvariant.pending_busy_step (h : CommandInvariant s) (hstep : step s = .next t)
    (hp : t.pend ≠ .none) : t.seq.busy = true := by
  cases step_cases hstep with
  | reset rest => exact absurd rfl hp
  | raise r live => exact h.pending_busy hp
  | answer a rest =>
    obtain e | ⟨-, e, -⟩ := ({ s with schedule := rest } : State).takeAnswer_completes a
    · rw [e] at hp ⊢; exact h.pending_busy hp
    · exact absurd e hp
  | stop live =>
    rw [State.takeStopCompletion_pend] at hp
    rw [State.takeStopCompletion_seq]
    exact h.pending_busy hp
  | idle live => exact h.pending_busy hp
  | capture i bytes rest => rfl
  | control v rest _ live sched => exact absurd (sched ▸ List.mem_cons_self) (h.commandsOnly v)
  | command _ live busy isCommand turn ran move => exact h.engine.consumeTurn.pending_busy_of_move busy move hp
  | rawBusy _ live busy notCommand => simp [h.engine.busy_command busy] at notCommand

/-- Settles O42: such a block meets the premise of O41, so the engine's items are kept, and item 4 with them. -/
theorem commandInvariantKept : Obligations.CommandInvariantKept := fun s t h hstep => {
  engine := engineInvariantKept s t h.engine h.orderly hstep
  pending_busy := h.pending_busy_step hstep
  commandsOnly := h.commandsOnly.step hstep }

/-! ### Reset (R40) -/

/-- Settles O39: the reset values, register by register. -/
theorem resetState : Obligations.ResetState := by
  refine ⟨?readCR, ?readSR, rfl, rfl, rfl, rfl, rfl, rfl, rfl⟩
  case readCR => rfl
  case readSR => rfl

/-- Settles O40: at reset nothing is pending or executing and no transaction is open, which is all the invariants ask
of it. -/
theorem resetMeetsInvariants : Obligations.ResetMeetsInvariants := by
  intro brr dr oar dir cmd mpc idx ok rx st s
  have engine : EngineInvariant s := .of_quiet rfl nofun (fun h => absurd rfl h) nofun
  exact ⟨engine, ⟨engine, fun h => absurd rfl h, nofun⟩, ⟨engine, nofun⟩, rfl⟩

/-! ### Whole-machine rules -/

/-- Settles O47: of all the moves only a completion sets `RDY`; a control write can but clear it. -/
theorem readyRisesOnlyOnCompletion : Obligations.ReadyRisesOnlyOnCompletion := by
  refine ⟨fun s t hstep hs ht => ?_, fun s t v hw => State.writeCR_rdy hw⟩
  have risen : s.cr.rdy ≠ t.cr.rdy := by simp [hs, ht]
  have notWritten {u : State} {v : Byte} (hu : u.cr = s.cr) : u.writeCR v ≠ .ok t := fun hw => by
    simp [State.writeCR_rdy hw, hu, hs] at ht
  cases step_cases hstep with
  | answer a rest live sched =>
    obtain e | ⟨hp, hp', -⟩ := ({ s with schedule := rest } : State).takeAnswer_completes a
    · rw [e] at risen; exact absurd rfl risen
    · exact ⟨hp, hp', a, rest, sched⟩
  | reset rest => cases ht
  | raise | idle | capture => exact absurd rfl risen
  | stop live => simp at risen
  | control v rest _ live sched written => exact absurd written (notWritten rfl)
  | command _ live busy isCommand turn ran move => exact absurd (hs.symm.trans (move.rdy_of_rdy ht)) nofun
  | rawBusy _ live busy notCommand turn ran =>
    obtain ⟨r, rfl⟩ | ⟨v, written⟩ := exec_control_next notCommand ran
    · exact absurd rfl risen
    · exact absurd written (notWritten rfl)

/-- Settles O48: no effect of a step clears `EN`. -/
theorem enabledStaysEnabled : Obligations.EnabledStaysEnabled := fun _ _ h hr he =>
  (step_effect_of_not_reset h hr).en_of_en he

/-- Settles O49: only the executing command's move writes these registers, and only its two configuration moves. -/
theorem bitRateAndOwnAddressWriters : Obligations.BitRateAndOwnAddressWriters := by
  intro s t h hr
  obtain ⟨hb, ho⟩ | ⟨busy, move⟩ := (step_effect_of_not_reset h hr).rates_eq_or_move
  · exact ⟨fun h => absurd hb h, fun h => absurd ho h⟩
  · exact ⟨fun h => ⟨busy, move.brr_writer h⟩, fun h => ⟨busy, move.oar_writer h⟩⟩

/-- Settles O51: one effect of a step adds at most one event and one response, and none clears `ABN`. -/
theorem historiesOnlyGrow : Obligations.HistoriesOnlyGrow := fun _ _ h hr =>
  have effect := step_effect_of_not_reset h hr
  ⟨effect.trace_grows, effect.out_grows, effect.abn_of_abn⟩

/-! ### No rule reads `BRR` or `OAR` (R21, R26) -/

/-- The state with other contents of `BRR` and `OAR`. -/
def State.withRates (s : State) (x y : Byte) : State := { s with brr := x, oar := y }

@[simp] theorem State.withRates_seq (s : State) (x y : Byte) : (s.withRates x y).seq = s.seq := rfl
@[simp] theorem State.withRates_fs (s : State) (x y : Byte) : (s.withRates x y).fs = s.fs := rfl
@[simp] theorem State.withRates_dir (s : State) (x y : Byte) : (s.withRates x y).dir = s.dir := rfl
@[simp] theorem State.withRates_pend (s : State) (x y : Byte) : (s.withRates x y).pend = s.pend := rfl
@[simp] theorem State.withRates_schedule (s : State) (x y : Byte) : (s.withRates x y).schedule = s.schedule := rfl
@[simp] theorem State.withRates_dr (s : State) (x y : Byte) : (s.withRates x y).dr = s.dr := rfl
@[simp] theorem State.withRates_foldStatus (s : State) (x y : Byte) :
    (s.withRates x y).foldStatus = s.foldStatus.withRates x y := rfl
@[simp] theorem State.withRates_writeDR (s : State) (x y v : Byte) :
    (s.withRates x y).writeDR v = (s.writeDR v).withRates x y := rfl
@[simp] theorem State.withRates_setRx (s : State) (x y : Byte) (l : List Byte) :
    (s.withRates x y).setRx l = (s.setRx l).withRates x y := rfl
@[simp] theorem State.withRates_setIdx (s : State) (x y : Byte) (n : Nat) :
    (s.withRates x y).setIdx n = (s.setIdx n).withRates x y := rfl
@[simp] theorem State.withRates_writeBRR (s : State) (x y v : Byte) :
    (s.withRates x y).writeBRR v = (s.writeBRR v).withRates v y := rfl
@[simp] theorem State.withRates_writeOAR (s : State) (x y v : Byte) :
    (s.withRates x y).writeOAR v = (s.writeOAR v).withRates x v := rfl

@[simp] theorem State.writeCR_withRates (s : State) (x y v : Byte) :
    (s.withRates x y).writeCR v = (s.writeCR v).map (·.withRates x y) := by
  simp only [State.writeCR, State.withRates_fs, State.withRates_dir]
  split
  · rfl
  · split
    · split <;> rfl
    · split <;> rfl

theorem State.takeAnswer_withRates (s : State) (x y : Byte) (a : Answer) :
    (s.withRates x y).takeAnswer a = (s.takeAnswer a).withRates x y := by
  simp only [State.takeAnswer, State.withRates_pend, State.withRates_fs]
  split <;> rfl

theorem State.takeStopCompletion_withRates (s : State) (x y : Byte) :
    (s.withRates x y).takeStopCompletion = s.takeStopCompletion.withRates x y :=
  (apply_ite (State.withRates · x y) (s.fs.isStopped = true) s.completeStop s).symm

/-- An update of the rest of the state, made after a write, commutes with other contents of the two registers. -/
theorem map_withRates {f : State → State} {x y : Byte} (hf : ∀ s, f (s.withRates x y) = (f s).withRates x y)
    (e : Except Fault State) : (e.map (·.withRates x y)).map f = (e.map f).map (·.withRates x y) := by
  cases e with
  | error r => rfl
  | ok t => exact congrArg Except.ok (hf t)

@[simp] theorem State.trigger_withRates (s : State) (x y v : Byte) :
    (s.withRates x y).trigger v = (s.trigger v).map (·.withRates x y) := by
  simp only [State.trigger, State.writeCR_withRates]
  exact map_withRates (fun _ => rfl) _

@[simp] theorem State.finish_withRates (s : State) (x y v : Byte) (ok : Bool) (payload : List Byte) :
    (s.withRates x y).finish v ok payload = (s.finish v ok payload).map (·.withRates x y) := by
  simp only [State.finish, State.writeCR_withRates]
  exact map_withRates (fun _ => rfl) _

@[simp] theorem State.transmit_withRates (s : State) (x y b : Byte) :
    (s.withRates x y).transmit b = (s.transmit b).map (·.withRates x y) := by
  simp [State.transmit]

/-- `f` neither reads the two registers nor writes them. -/
def LeavesRates (f : State → Except Fault State) : Prop :=
  ∀ s x y, f (s.withRates x y) = (f s).map (·.withRates x y)

/-- `f` does not read the two registers: on other contents it answers the same fault, or the same state up to them. -/
def ReadsNoRates (f : State → Except Fault State) : Prop :=
  ∀ s x y, ∃ x' y', f (s.withRates x y) = (f s).map (·.withRates x' y')

theorem LeavesRates.readsNoRates {f : State → Except Fault State} (h : LeavesRates f) : ReadsNoRates f :=
  fun s x y => ⟨x, y, h s x y⟩

theorem openStep_leavesRates : LeavesRates openStep.act := fun s x y => s.trigger_withRates x y 0xA4

theorem addressStep_leavesRates (a : Addr7) (d : Dir) : LeavesRates (addressStep a d).act :=
  fun s x y => s.transmit_withRates x y (sla a d)

theorem writeBufferLoop_leavesRates (a : Addr7) (bytes : List Byte) : LeavesRates (writeBufferLoop a bytes) := by
  intro s x y
  simp only [writeBufferLoop, State.withRates_foldStatus, State.withRates_seq, State.finish_withRates,
    State.withRates_writeDR, State.writeCR_withRates]
  split
  · rfl
  · split
    · rfl
    · split
      · exact map_withRates (fun _ => rfl) _
      · rfl

theorem readBufferFirst_leavesRates (n : Nat) : LeavesRates (readBufferFirst n) := by
  intro s x y
  simp only [readBufferFirst, State.withRates_foldStatus, State.withRates_seq, State.finish_withRates,
    State.trigger_withRates]
  split
  · rfl
  · split <;> rfl

theorem readBufferLoop_leavesRates (n : Nat) : LeavesRates (readBufferLoop n) := by
  intro s x y
  simp only [readBufferLoop, State.withRates_setRx, State.withRates_setIdx, State.withRates_seq, State.withRates_dr,
    State.finish_withRates, State.writeCR_withRates]
  split
  · rfl
  · split <;> rfl

/-- Command 1 writes `BRR`, and reads neither register. -/
theorem progInitialize_readsNoRates (c f : Nat) : ∀ m ∈ progInitialize c f, ReadsNoRates m.act := by
  simp only [progInitialize, List.forall_mem_singleton]
  intro s x y
  cases divisor c f with
  | none => exact ⟨x, y, rfl⟩
  | some d => exact ⟨BitVec.ofNat 8 d, y, State.finish_withRates ..⟩

/-- Command 7 writes `OAR`, and reads neither register. -/
theorem progRegisterOwnAddress_readsNoRates (a : Addr7) : ∀ m ∈ progRegisterOwnAddress a, ReadsNoRates m.act := by
  simp only [progRegisterOwnAddress, List.forall_mem_singleton]
  exact fun s x y => ⟨x, ownAddressByte a, State.finish_withRates ..⟩

/-- Every micro-step of the other commands leaves both registers alone. -/
theorem program_leavesRates {i : Instr} (hc : ∀ c f, i ≠ .initializeBus c f) (ho : ∀ a, i ≠ .registerOwnAddress a) :
    ∀ m ∈ program i, LeavesRates m.act := by
  cases i <;> simp only [program, progSendStart, progSendStop, progWriteByte, progReadByteAck, progReadByteNoAck,
    progWriteByteTo, progReadByteFrom, progWriteBuffer, progReadBuffer, List.forall_mem_cons, List.not_mem_nil,
    false_imp_iff, implies_true, and_true]
  case initializeBus c f => exact absurd rfl (hc c f)
  case registerOwnAddress a => exact absurd rfl (ho a)
  case sendStart => exact ⟨openStep_leavesRates, fun s x y => rfl⟩
  case sendStop => exact fun s x y => s.finish_withRates x y 0x94 true []
  case writeByte b => exact ⟨fun s x y => s.transmit_withRates x y b, fun s x y => rfl⟩
  case readByteAck => exact ⟨fun s x y => s.trigger_withRates x y 0xC4, fun s x y => rfl⟩
  case readByteNoAck => exact ⟨fun s x y => s.trigger_withRates x y 0x84, fun s x y => rfl⟩
  case writeByteTo a d =>
    exact ⟨openStep_leavesRates, addressStep_leavesRates a .w, fun s x y => s.foldStatus.transmit_withRates x y d,
      fun s x y => s.foldStatus.finish_withRates x y 0x94 s.foldStatus.seq.ok []⟩
  case readByteFrom a =>
    exact ⟨openStep_leavesRates, addressStep_leavesRates a .r, fun s x y => s.foldStatus.trigger_withRates x y 0x84,
      fun s x y => (s.setRx [s.dr]).finish_withRates x y 0x94 s.seq.ok [s.dr]⟩
  case writeBuffer a bytes =>
    refine ⟨openStep_leavesRates, fun s x y => ?_, writeBufferLoop_leavesRates a bytes⟩
    simp only [State.transmit_withRates]
    exact map_withRates (fun _ => rfl) _
  case readBuffer a n =>
    exact ⟨openStep_leavesRates, addressStep_leavesRates a .r, readBufferFirst_leavesRates n,
      readBufferLoop_leavesRates n⟩

theorem program_readsNoRates (i : Instr) : ∀ m ∈ program i, ReadsNoRates m.act := by
  by_cases hc : ∃ c f, i = .initializeBus c f
  · obtain ⟨c, f, rfl⟩ := hc
    exact progInitialize_readsNoRates c f
  · by_cases ho : ∃ a, i = .registerOwnAddress a
    · obtain ⟨a, rfl⟩ := ho
      exact progRegisterOwnAddress_readsNoRates a
    · push Not at hc ho
      exact fun m hm => (program_leavesRates hc ho m hm).readsNoRates

theorem runMicro_readsNoRates (i : Instr) : ReadsNoRates (runMicro (program i)) := by
  intro s x y
  simp only [runMicro, State.withRates_seq]
  split
  · rename_i m hm
    obtain ⟨k, -, hk⟩ := microAt_some hm
    have guard : m.guard.isOpen (s.withRates x y) = m.guard.isOpen s := by cases m.guard <;> rfl
    rw [guard]
    split
    · exact program_readsNoRates i m (List.mem_of_getElem? hk) s x y
    · exact ⟨x, y, rfl⟩
  · exact ⟨x, y, rfl⟩

/-- Two outcomes are the same up to `BRR` and `OAR` of the next state. No outcome is the same as a refusal. -/
inductive SameUpToRates : Host.Outcome State Fault Refusal → Host.Outcome State Fault Refusal → Prop
  | next (t : State) (x y : Byte) : SameUpToRates (.next t) (.next (t.withRates x y))
  | fault (r : Fault) : SameUpToRates (.fault r) (.fault r)

namespace SameUpToRates

theorem of_next {o : Host.Outcome State Fault Refusal} (h : SameUpToRates (.next t) o) :
    ∃ x y, o = .next (t.withRates x y) := by
  cases h with
  | next _ x y => exact ⟨x, y, rfl⟩

theorem of_fault {r : Fault} {o : Host.Outcome State Fault Refusal} (h : SameUpToRates (.fault r) o) :
    o = .fault r := by
  cases h; rfl

theorem not_refused {r : Refusal} {o : Host.Outcome State Fault Refusal} : ¬ SameUpToRates (.refused r) o := nofun

theorem ite {c : Prop} [Decidable c] {a a' b b' : Host.Outcome State Fault Refusal} (ha : SameUpToRates a a')
    (hb : SameUpToRates b b') : SameUpToRates (if c then a else b) (if c then a' else b') := by
  split
  · exact ha
  · exact hb

/-- A fault raised by a step, whatever the registers hold. -/
theorem raise (s : State) (x y : Byte) (r : Fault) :
    SameUpToRates (.next (s.raise r)) (.next ((s.withRates x y).raise r)) := .next (s.raise r) x y

theorem settle {f : State → Except Fault State} (hf : ReadsNoRates f) (s : State) (x y : Byte) :
    SameUpToRates (settle s (f s)) (settle (s.withRates x y) (f (s.withRates x y))) := by
  obtain ⟨x', y', h⟩ := hf s x y
  rw [h]
  cases f s with
  | ok t => exact .next t x' y'
  | error r => exact .raise s x y r

theorem whileLive (s : State) (x y : Byte) {o o' : Host.Outcome State Fault Refusal} (h : SameUpToRates o o') :
    SameUpToRates (whileLive s o) (whileLive (s.withRates x y) o') := by
  cases hf : s.flt with
  | none => rwa [whileLive_live hf, whileLive_live (s := s.withRates x y) hf]
  | some r => rw [whileLive_faulted hf, whileLive_faulted (s := s.withRates x y) hf]; exact .fault r

theorem runCommand (i : Instr) (s : State) (x y : Byte) :
    SameUpToRates (runCommand i (program i) s) (runCommand i (program i) (s.withRates x y)) := by
  refine whileLive s x y (ite (ite (settle (runMicro_readsNoRates i) s x y) (.raise s x y _)) ?_)
  rw [show admission i (s.withRates x y) = admission i s from rfl]
  cases admission i s with
  | some r => exact .raise s x y r
  | none => exact .next (s.capture i) x y

theorem runControl (v : Byte) (s : State) (x y : Byte) :
    SameUpToRates (runControl v s) (runControl v (s.withRates x y)) :=
  whileLive s x y (settle (f := (·.writeCR v)) (fun s x y => ⟨x, y, s.writeCR_withRates x y v⟩) s x y)

theorem exec (i : Instr) (s : State) (x y : Byte) : SameUpToRates (exec i s) (exec i (s.withRates x y)) := by
  cases hi : i.isCommand with
  | true => rw [exec_command hi, exec_command hi]; exact runCommand i s x y
  | false =>
    obtain ⟨v, hv⟩ : ∃ v, encode i = .control v := by cases i <;> first | exact ⟨_, rfl⟩ | cases hi
    rw [exec_control hv, exec_control hv]; exact runControl v s x y

theorem stopCompletion (s : State) (x y : Byte) :
    SameUpToRates (.next s.takeStopCompletion) (.next (s.withRates x y).takeStopCompletion) := by
  rw [State.takeStopCompletion_withRates]; exact .next _ x y

theorem answer (a : Answer) (s : State) (x y : Byte) :
    SameUpToRates (.next (s.takeAnswer a)) (.next ((s.withRates x y).takeAnswer a)) := by
  rw [State.takeAnswer_withRates]; exact .next _ x y

theorem takeTurn (turn : Turn) (s : State) (x y : Byte) :
    SameUpToRates (takeTurn turn s) (takeTurn turn (s.withRates x y)) := by
  cases turn with
  | issue bytes =>
    refine ite (.raise s x y _) ?_
    cases decodeCommand bytes with
    | ok i => exact exec i s x y
    | error e => exact .raise s x y _
  | control v =>
    simp only [Machine.takeTurn, takeControl, State.withRates_fs, State.withRates_dir]
    cases decodeControl v s.fs s.dir with
    | ok i => exact exec i s x y
    | error e => exact .raise s x y _
  | sequencer => exact ite (exec s.seq.cmd s x y) (.next s x y)
  | stopCompletion => exact stopCompletion s x y
  | answer a => exact answer a s x y
  | reset => exact .next { State.reset with schedule := s.schedule } 0 0

theorem takeOwnStep (s : State) (x y : Byte) : SameUpToRates (takeOwnStep s) (takeOwnStep (s.withRates x y)) :=
  ite (exec s.seq.cmd s x y) (stopCompletion s x y)

theorem step (s : State) (x y : Byte) : SameUpToRates (step s) (step (s.withRates x y)) := by
  simp only [Machine.step, State.withRates_schedule]
  split
  · exact whileLive s x y (takeOwnStep s x y)
  · exact takeTurn .reset { s with schedule := _ } x y
  · exact whileLive s x y (takeTurn _ { s with schedule := _ } x y)

end SameUpToRates

/-- Settles O50: the two outcomes are the same up to these registers, and none is a refusal. -/
theorem bitRateAndOwnAddressUnread : Obligations.BitRateAndOwnAddressUnread := fun s x y =>
  have same : SameUpToRates (step s) (step (s.withRates x y)) := .step s x y
  ⟨fun _ h => (h ▸ same).of_next, fun _ h => (h ▸ same).of_fault, fun _ h => (h ▸ same).not_refused⟩

end Sys2Proof.Machine
end

section
/-! PROOFS. The register space: the bits a read of `CR` and `SR` returns, and the access by offset (20_memory.md R61, R62,
R64). -/

namespace Sys2Proof.Machine

open Sys2Proof

/-! ### The bits of a read (R64) -/

theorem Framing.isStopped_iff (fs : Framing) : fs.isStopped = true ↔ fs = .stopped := by
  cases fs <;> simp [Framing.isStopped]

/-- The eight fields of `x[CR]`, written from bit 7 down, are its bits from 0 up. -/
theorem controlFields_eq_ofBoolListLE (rdy acken sta stopped en : Bool) :
    BitVec.ofBool rdy ++ BitVec.ofBool acken ++ BitVec.ofBool sta ++ BitVec.ofBool stopped ++ 0#1 ++ BitVec.ofBool en ++
      0#2 = BitVec.ofBoolListLE [false, false, en, false, stopped, sta, acken, rdy] := by
  revert rdy acken sta stopped en
  decide

/-- Every bit of a read of `CR`, bit 0 first. -/
theorem State.readCR_getLsbD (s : State) (i : Nat) :
    s.readCR.getLsbD i =
      [false, false, s.cr.en, false, s.fs.isStopped, s.cr.sta, s.cr.acken, s.cr.rdy].getD i false := by
  rw [State.readCR, controlFields_eq_ofBoolListLE, BitVec.getLsbD_ofBoolListLE]

theorem State.readSR_code (s : State) : s.readSR.extractLsb' 3 5 = s.srCode := BitVec.extractLsb'_append_eq_left

theorem State.readSR_low (s : State) : s.readSR.extractLsb' 0 3 = 0 := BitVec.extractLsb'_append_eq_right

/-- Settles O16: the bits of `CR` are read off its list of fields; `CODE` is the upper part of `SR`. -/
theorem registerReadBits : Obligations.RegisterReadBits := by
  intro s
  have bit (i : Nat) := s.readCR_getLsbD i
  exact ⟨bit 7, bit 6, bit 5, bit 4 ▸ Framing.isStopped_iff s.fs, bit 3, bit 2, bit 1, bit 0, s.readSR_code,
    s.readSR_low⟩

/-! ### The register space (R61, R62) -/

@[simp] theorem regAt_offset (r : Reg) : regAt r.offset = some r := by cases r <;> rfl

/-- Above the five offsets there is no register (R61). -/
theorem regAt_eq_none {o : Nat} (h : 5 ≤ o) : regAt o = none := by
  obtain ⟨k, rfl⟩ := Nat.exists_eq_add_of_le' h
  rfl

section
variable (s : State)

@[simp] theorem State.memRead_offset (r : Reg) : s.memRead r.offset 1 = .ok (s.readReg r) := by
  simp [State.memRead]

@[simp] theorem State.memWrite_offset (r : Reg) (v : Byte) : s.memWrite r.offset 1 v = settle s (s.writeReg r v) := by
  simp [State.memWrite]

theorem State.memRead_noSuchRegister {o : Nat} (h : 5 ≤ o) : s.memRead o 1 = .error (.noSuchRegister o) := by
  simp [State.memRead, regAt_eq_none h]

theorem State.memWrite_noSuchRegister {o : Nat} (h : 5 ≤ o) (v : Byte) :
    s.memWrite o 1 v = .refused (.noSuchRegister o) := by
  simp [State.memWrite, regAt_eq_none h]

theorem State.memRead_accessWidth (o : Nat) {n : Nat} (h : n ≠ 1) : s.memRead o n = .error (.accessWidth n) :=
  if_neg h

theorem State.memWrite_accessWidth (o : Nat) {n : Nat} (h : n ≠ 1) (v : Byte) :
    s.memWrite o n v = .refused (.accessWidth n) :=
  if_neg h

end

/-- Settles O17: offsets 0 to 4 are the five registers, whose writes are settled and whose reads are answered register by
register; every other access is refused. -/
theorem registerSpaceAccess : Obligations.RegisterSpaceAccess := fun s v =>
  ⟨s.memWrite_offset .brr v, s.memWrite_offset .sr v, s.memWrite_offset .oar v, s.memWrite_offset .dr v,
    s.memWrite_offset .cr v, s.memRead_offset .brr, s.memRead_offset .sr, s.memRead_offset .oar, s.memRead_offset .dr,
    s.memRead_offset .cr, fun _ h => ⟨s.memRead_noSuchRegister h, s.memWrite_noSuchRegister h v⟩,
    fun o _ h => ⟨s.memRead_accessWidth o h, s.memWrite_accessWidth o h v⟩⟩

end Sys2Proof.Machine
end

section
/-! PROOFS. The encodings: the command strings and the control values (30_encoding.md R90 to R100), the address byte and
the success predicate (R101, R104), and the responses (R98). A first part says once what the decoder accepts, what it
refuses, and that it reads back what the encoder wrote. -/

namespace Sys2Proof

/-! ### The framing conditions of R99 -/

theorem Framing.isStarted_iff (fs : Framing) : fs.isStarted = true ↔ fs = .started := by
  cases fs <;> simp [Framing.isStarted]

theorem Framing.isData_iff (fs : Framing) : fs.isData = true ↔ ∃ k, fs = .dataPhase k := by
  cases fs <;> simp [Framing.isData]

/-! ### Command strings (R92 to R97) -/

theorem Byte.eq_ofNat {b : Byte} {n : Nat} (h : b.toNat = n) : b = BitVec.ofNat 8 n := by
  rw [← h, BitVec.ofNat_toNat, BitVec.setWidth_eq]

/-- Operands in the ranges of R95 survive the encoding: an address fits its byte, a number its bytes, a length its one
byte. -/
theorem decodeCommand_encode {i : Instr} (hi : i.isCommand = true) (hw : i.wellFormed = true) :
    ∃ bytes, encode i = .command bytes ∧ decodeCommand bytes = .ok i := by
  cases i
  case initializeBus c f =>
    simp only [Instr.wellFormed, Config.clkBits, Config.freqBits, Bool.and_eq_true, decide_eq_true_eq] at hw
    obtain ⟨hc, hf⟩ := hw
    have hc : natOfBytes (bytesOfNat 4 c) = c := natOfBytes_bytesOfNat 4 c hc
    have hf : natOfBytes (bytesOfNat 2 f) = f := natOfBytes_bytesOfNat 2 f hf
    exact ⟨_, rfl, congrArg Except.ok (congrArg₂ Instr.initializeBus hc hf)⟩
  case sendStart | sendStop | writeByte | readByteAck | readByteNoAck => exact ⟨_, rfl, rfl⟩
  case registerOwnAddress a | readByteFrom a => exact ⟨_, rfl, decodeAddress_encodeAddress a _⟩
  case writeByteTo a d => exact ⟨_, rfl, decodeAddress_encodeAddress a (.writeByteTo · d)⟩
  case writeBuffer a bytes =>
    have hl : bytes.length < 256 := by simpa [Instr.wellFormed, Config.lenBits] using hw
    exact ⟨_, rfl, by simp [decodeCommand, decodeOperands, Nat.mod_eq_of_lt hl]⟩
  case readBuffer a n =>
    have hn : n < 256 := by simpa [Instr.wellFormed, Config.lenBits] using hw
    exact ⟨_, rfl, by simp [decodeCommand, decodeOperands, Nat.mod_eq_of_lt hn]⟩
  all_goals cases hi

/-- What the operand decoder reads is in the ranges of R95, and is written as the bytes it was read from. -/
theorem decodeOperands_ok {op : Byte} {rest : List Byte} {i : Instr} (h : decodeOperands op rest = .ok i) :
    i.wellFormed = true ∧ encode i = .command (op :: rest) := by
  simp only [decodeOperands] at h
  split at h <;> rename_i hop
  case h_12 => cases h
  all_goals obtain rfl := Byte.eq_ofNat hop
  case h_1 =>
    split at h
    next c0 c1 c2 c3 f0 f1 =>
      cases h
      have hc : bytesOfNat 4 (natOfBytes [c0, c1, c2, c3]) = [c0, c1, c2, c3] :=
        bytesOfNat_natOfBytes [c0, c1, c2, c3]
      have hf : bytesOfNat 2 (natOfBytes [f0, f1]) = [f0, f1] := bytesOfNat_natOfBytes [f0, f1]
      refine ⟨?_, by simp [encode, hc, hf]⟩
      simp only [Instr.wellFormed, Bool.and_eq_true, decide_eq_true_eq]
      exact ⟨by simpa [Config.clkBits] using natOfBytes_lt [c0, c1, c2, c3],
        by simpa [Config.freqBits] using natOfBytes_lt [f0, f1]⟩
    next => cases h
  case h_2 | h_3 | h_5 | h_6 =>
    split at h
    next hr => cases h; rw [hr]; exact ⟨rfl, rfl⟩
    next => cases h
  case h_4 =>
    split at h
    next => cases h; exact ⟨rfl, rfl⟩
    next => cases h
  case h_7 | h_8 | h_9 =>
    split at h
    next => obtain ⟨a, rfl, rfl⟩ := decodeAddress_ok h; exact ⟨rfl, rfl⟩
    next => cases h
  case h_10 =>
    split at h
    next b n data =>
      split at h
      next hl =>
        obtain ⟨a, rfl, rfl⟩ := decodeAddress_ok h
        exact ⟨by simpa [Instr.wellFormed, Config.lenBits, hl] using n.isLt, by simp [encode, hl]⟩
      next => cases h
    next => cases h
  case h_11 =>
    split at h
    next b n =>
      obtain ⟨a, rfl, rfl⟩ := decodeAddress_ok h
      exact ⟨by simpa [Instr.wellFormed, Config.lenBits] using n.isLt, by simp [encode]⟩
    next => cases h

/-- What the operand decoder refuses: a length other than R96's (no opcode: no length), or an address byte with bit 7
set. -/
theorem decodeOperands_error_iff {op : Byte} {rest : List Byte} :
    (∃ e, decodeOperands op rest = .error e) ↔
      commandLength op (rest.getD 1 0) ≠ some (rest.length + 1) ∨
        (op.toNat ∈ [0x07, 0x08, 0x09, 0x0A, 0x0B] ∧ (rest.getD 0 0).getLsbD 7 = true) := by
  simp only [decodeOperands]
  split <;> rename_i hop
  case h_12 => simp [commandLength]
  all_goals simp only [commandLength, hop]
  case h_1 => obtain _ | ⟨_, _ | ⟨_, _ | ⟨_, _ | ⟨_, _ | ⟨_, _ | ⟨_, _ | ⟨_, _⟩⟩⟩⟩⟩⟩⟩ := rest <;> simp
  case h_2 | h_3 | h_5 | h_6 => cases rest <;> simp
  case h_4 => obtain _ | ⟨_, _ | ⟨_, _⟩⟩ := rest <;> simp
  case h_7 | h_9 => obtain _ | ⟨_, _ | ⟨_, _⟩⟩ := rest <;> simp [decodeAddress_error_iff]
  case h_8 | h_11 => obtain _ | ⟨_, _ | ⟨_, _ | ⟨_, _⟩⟩⟩ := rest <;> simp [decodeAddress_error_iff]
  case h_10 =>
    obtain _ | ⟨_, _ | ⟨n, data⟩⟩ := rest
    · simp
    · simp
    · have hlen : 3 + n.toNat = data.length + 1 + 1 + 1 ↔ data.length = n.toNat := by omega
      simp only [List.length_cons, List.getD_cons_succ, List.getD_cons_zero, ne_eq, Option.some.injEq, hlen]
      split <;> simp [*, decodeAddress_error_iff]

/-- The byte 0 and the bytes from 12 up are no opcodes (R94): they have no length. -/
theorem commandLength_ne_some {op : Byte} (h : op.toNat = 0 ∨ 12 ≤ op.toNat) (third : Byte) (n : Nat) :
    commandLength op third ≠ some n := by
  unfold commandLength
  split
  case h_12 => nofun
  all_goals omega

end Sys2Proof

namespace Sys2Proof.Machine

open Sys2Proof

variable {s t : State}

/-- Settles O1, command by command: every operand in range survives its bytes. -/
theorem commandRoundTrip : Obligations.CommandRoundTrip := fun _ hi hw => decodeCommand_encode hi hw

/-- Settles O2, opcode by opcode: the operand decoder reads nothing that the encoder does not write back. -/
theorem decodedStringIsTheEncoding : Obligations.DecodedStringIsTheEncoding := by
  intro bytes i h
  refine ⟨decodeCommand_isCommand h, ?_⟩
  cases bytes with
  | nil => cases h
  | cons op rest => exact decodeOperands_ok h

/-- The issue of a string that is no command, none executing (R211 F2). -/
theorem step_issue_illegal {bytes : List Byte} {e : DecodeError} (rest : List Turn) (hf : s.flt = none)
    (hb : s.seq.busy = false) (hd : decodeCommand bytes = .error e) :
    step { s with schedule := .issue bytes :: rest } =
      .next (({ s with schedule := rest } : State).raise (.illegalCommand bytes)) := by
  simp [step, whileLive, hf, takeTurn, takeIssue, hb, hd]

/-- Settles O3: a non-empty string is refused with its operands, and a reserved opcode has no length to match. -/
theorem illegalCommandStrings : Obligations.IllegalCommandStrings := by
  refine ⟨fun bytes => ?_, fun s bytes rest hf hb hs ⟨e, he⟩ => ?_⟩
  · cases bytes with
    | nil => exact iff_of_true ⟨_, rfl⟩ (.inl rfl)
    | cons op rest =>
      refine decodeOperands_error_iff.trans ⟨fun h => .inr (.inr (.inr h)), ?_⟩
      rintro (h | h | h | h)
      · cases h
      · exact .inl (commandLength_ne_some (.inl h) _ _)
      · exact .inl (commandLength_ne_some (.inr h) _ _)
      · exact h
  · have hstep := step_issue_illegal rest hf hb he
    rw [← hs] at hstep
    exact hstep

/-! ### Control values (R99, R100) -/

/-- A value R100 reserves in a framing state and direction: none of the six, or one whose action needs another framing
state or direction. -/
def reservedControl (v : Byte) (fs : Framing) (dir : Dir) : Prop :=
  v ∉ [0x04, 0x44, 0xA4, 0x94, 0x84, 0xC4] ∨ (v = 0xA4 ∧ fs ≠ .idle) ∨
    (v ∈ [0x94, 0x84] ∧ (fs = .idle ∨ fs = .addressPhase ∨ fs = .stopped)) ∨
    (v = 0xC4 ∧ ¬ (dir = .r ∧ ∃ k, fs = .dataPhase k))

/-- `0x94` and `0x84` are accepted in an open transaction only. -/
theorem State.open_of_writeCR {v : Byte} (hv : v ∈ [0x94, 0x84]) (h : s.writeCR v = .ok t) :
    s.fs = .started ∨ ∃ k, s.fs = .dataPhase k := by
  obtain rfl | rfl : v = 0x94 ∨ v = 0x84 := by simpa using hv
  · exact (State.writeCR_stop_ok h).1
  · obtain ⟨hfs, -⟩ | ⟨-, hfs, -⟩ | ⟨-, hfs, -⟩ := State.writeCR_transfer_ok h
    exacts [.inl hfs, .inr hfs, .inr hfs]

/-- What an accepted write tells of the framing and the direction excludes every reserved case. -/
theorem State.writeCR_of_reserved {v : Byte} (hv : reservedControl v s.fs s.dir) :
    s.writeCR v = .error (.illegalControl v s.fs s.dir) := by
  cases h : s.writeCR v with
  | error r => rw [State.writeCR_error h]
  | ok t =>
    exfalso
    obtain hv | ⟨rfl, hfs⟩ | ⟨hv, hfs⟩ | ⟨rfl, hfs⟩ := hv
    · exact hv (State.writeCR_value h)
    · exact hfs (State.writeCR_start_ok h).1
    · obtain e | ⟨k, e⟩ := State.open_of_writeCR hv h <;> simp [e] at hfs
    · obtain ⟨hd, hk, -⟩ := State.writeCR_rxa_ok h
      exact hfs ⟨hd, hk⟩

/-- Settles O21: the raw write steps as the `CR` write of a reserved value, which is refused. -/
theorem reservedControlRaises : Obligations.ReservedControlRaises := by
  intro s v rest hf hs hv
  have hstep := step_control (s := s) v rest hf
  rw [← hs, State.writeCR_of_reserved (s := { s with schedule := rest }) hv] at hstep
  exact hstep

/-- Settles O4: the condition of R99 fixes the framing state and direction that tell the three actions of `0x84` apart;
the other values name one action each. -/
theorem controlActionsDecode : Obligations.ControlActionsDecode := by
  refine ⟨fun i fs dir hi hc => ?_, fun v fs dir i h => decodeControl_ok h⟩
  cases i
  case enable | enableAck | start | stop | rxa => rfl
  case txa =>
    obtain rfl := fs.isStarted_iff.1 hc
    rfl
  case txd | rxn =>
    simp only [controlCondition, Bool.and_eq_true, Framing.isData_iff, decide_eq_true_eq] at hc
    obtain ⟨⟨k, rfl⟩, rfl⟩ := hc
    rfl
  all_goals cases hi

/-- Settles O5, by running the decoder on each word. -/
theorem wordsDecode : Obligations.WordsDecode := ⟨rfl, rfl, rfl, rfl, rfl, rfl, rfl, rfl⟩

/-! ### The address byte and the success predicate (R101, R104) -/

/-- The address shifted by one leaves bit 0 free for the direction. -/
theorem sla_toNat (a : Addr7) (d : Dir) : (sla a d).toNat = 2 * a.toNat + (dirBit d).toNat := by
  have ha := a.isLt
  have hshift : (a.setWidth 8 <<< 1).toNat = a.toNat <<< 1 := by
    simp [Nat.shiftLeft_eq]; omega
  have hbit : (dirBit d).toNat < 2 ^ 1 := by cases d <;> decide
  rw [sla, BitVec.toNat_or, hshift, ← Nat.shiftLeft_add_eq_or_of_lt hbit, Nat.shiftLeft_eq, pow_one, mul_comm]

/-- Settles O13. -/
theorem addressByteFields : Obligations.AddressByteFields := fun a =>
  ⟨sla_toNat a .w, sla_toNat a .r, dirOf_sla a .w, dirOf_sla a .r, rfl, rfl⟩

/-- Settles O14: `ackOk` is the four comparisons. -/
theorem ackOkExactly : Obligations.AckOkExactly := fun s => by
  simp [ackOk, or_assoc]

/-! ### Responses (R98) -/

/-- A move of the executing command ends it with a response, or goes on without one. -/
theorem CommandMove.responds_or_keeps (h : CommandMove s t) :
    (t.seq.busy = false ∧ ∃ r, t.out = s.out ++ [r]) ∨ (t.seq.busy = s.seq.busy ∧ t.out = s.out) := by
  cases h with
  | hold => exact .inr ⟨rfl, rfl⟩
  | trigger _ _ _ _ _ _ _ busy => exact .inr ⟨busy, rfl⟩
  | respond _ _ _ _ busy | configure _ _ _ _ _ busy | stop _ _ _ _ busy => exact .inl ⟨busy, _, rfl⟩

/-- Of all the effects only a command's move responds, and no other ends a command. -/
theorem Effect.responds_or_keeps (h : Effect s t) :
    (s.seq.busy = true ∧ t.seq.busy = false ∧ ∃ r, t.out = s.out ++ [r]) ∨
      ((s.seq.busy = true → t.seq.busy = true) ∧ t.out = s.out) := by
  cases h with
  | keep => exact .inr ⟨id, rfl⟩
  | capture => exact .inr ⟨fun _ => rfl, rfl⟩
  | answer a => exact .inr (by simp)
  | stopCompletion => exact .inr (by simp)
  | write v _ written =>
    exact .inr ⟨fun hb => by rw [State.writeCR_seq written, hb], State.writeCR_out written⟩
  | command _ busy move =>
    obtain ⟨hb, hout⟩ | ⟨hb, hout⟩ := move.responds_or_keeps
    · exact .inl ⟨busy, hb, hout⟩
    · exact .inr ⟨fun h => hb.trans h, hout⟩

/-- Settles O52: an effect either ends the command with a response, or does neither. -/
theorem oneResponsePerCommand : Obligations.OneResponsePerCommand := by
  intro s t h hr
  obtain ⟨hb, ht, hout⟩ | ⟨hkeep, hout⟩ := (step_effect_of_not_reset h hr).responds_or_keeps
  · exact iff_of_true hout ⟨hb, ht⟩
  · refine iff_of_false ?_ ?_
    · rintro ⟨r, hr⟩
      simp [State.consumeTurn, hr] at hout
    · rintro ⟨hb, ht⟩
      simp [hkeep hb] at ht

end Sys2Proof.Machine
end

section
/-! PROOFS. The configuration family (40_configuration.md): the divisor function (R131) and the micro-step of
`initialize` (R130). -/

namespace Sys2Proof.Machine

open Sys2Proof

/-! ### The divisor (R131) -/

/-- Settles O11, branch by branch: each refusal of the divisor denies one of the conjuncts, and where none applies the
value is the half of the quotient less 16. -/
theorem divisorExact : Obligations.DivisorExact := by
  intro c f d
  have bound : 2 ^ Config.brrBits = 256 := rfl
  unfold divisor
  generalize c / (f * 1000) = q
  split
  case isTrue zero => simp [zero]
  case isFalse nonzero =>
    dsimp only
    rw [bound]
    split
    case isTrue small => simp only [reduceCtorEq, false_iff]; omega
    case isFalse large =>
      split
      case isTrue fits => rw [Option.some.injEq]; omega
      case isFalse tooBig => simp only [reduceCtorEq, false_iff]; omega

/-! ### The micro-step of `initialize` (R130) -/

/-- The last step of a command responds in the state its `CR` write leaves. -/
theorem State.finish_of_writeCR {s t : State} {v : Byte} (h : s.writeCR v = .ok t) (ok : Bool) (payload : List Byte) :
    s.finish v ok payload = .ok (t.respond ok payload) := by
  rw [State.finish, h]; rfl

/-- Where the divisor is defined, the program of `initialize` is its one unguarded step: `BRR`, then `ENABLE`. -/
theorem progInitialize_of_divisor {c f d : Nat} (h : divisor c f = some d) :
    progInitialize c f = [⟨.always, fun s => (s.writeBRR (BitVec.ofNat 8 d)).finish 0x04 true []⟩] := by
  simp only [progInitialize, h]

/-- Settles O27: the step writes the divisor, and its `ENABLE` write succeeds in every state. -/
theorem initializeSteps : Obligations.InitializeSteps := by
  intro c f d s live defined busy cmd mpc
  have first : microAt (program (.initializeBus c f)) s.seq.mpc =
      some ⟨.always, fun s => (s.writeBRR (BitVec.ofNat 8 d)).finish 0x04 true []⟩ := by
    rw [mpc, program, progInitialize_of_divisor defined]; rfl
  rw [exec_micro rfl live busy cmd first rfl]
  dsimp only
  rw [State.finish_of_writeCR (State.writeCR_enable _), settle_ok]
  rfl

end Sys2Proof.Machine
end

section
/-! PROOFS. The primitive operations (41_primitives.md): the checks at issue and the capture (R140, R141), the hold at a
closed guard (R140 step 2), and the micro-steps of the six primitives (R142 to R147). A first part says once what each
check answers and what a micro-step with an open guard does. -/

namespace Sys2Proof.Machine

open Sys2Proof

variable {s t : State} {i : Instr} {bytes : List Byte}

/-! ### The admission matrix (R141) -/

theorem Framing.isIdle_iff (fs : Framing) : fs.isIdle = true ↔ fs = .idle := by
  cases fs <;> simp [Framing.isIdle]

theorem opensIn_iff (fs : Framing) : opensIn fs = true ↔ fs = .idle ∨ fs = .stopped := by
  rw [opensIn, Bool.or_eq_true, Framing.isIdle_iff, Framing.isStopped_iff]

/-- A direction in the data phase, as the matrix tests it. -/
theorem isData_and_dir_iff (fs : Framing) (dir d : Dir) :
    (fs.isData && decide (dir = d)) = true ↔ dir = d ∧ ∃ k, fs = .dataPhase k := by
  rw [Bool.and_eq_true, Framing.isData_iff, decide_eq_true_eq, and_comm]

/-- Settles O7: the rows of a kind of command read one test of the framing state and direction. -/
theorem admissionMatrix : Obligations.AdmissionMatrix := by
  intro fs dir c f n a b bs
  refine ⟨by simp [touchesBus, admittedIn], by simp [touchesBus], ?openers, ?sendStop, ?writeByte, ?reads⟩
  case openers => simp [admittedIn, opensIn_iff]
  case sendStop => rw [admittedIn, Bool.or_eq_true, Framing.isStarted_iff, Framing.isData_iff]
  case writeByte => rw [admittedIn, Bool.or_eq_true, Framing.isStarted_iff, isData_and_dir_iff]
  case reads =>
    have row := isData_and_dir_iff fs dir .r
    exact List.forall_mem_cons.2 ⟨row, List.forall_mem_singleton.2 row⟩

/-! ### What the checks answer (R141) -/

/-- Check (3) refuses `initialize` with an undefined divisor only. -/
theorem badConfiguration_eq_none (h : ∀ c f, i = .initializeBus c f → divisor c f ≠ none) :
    badConfiguration i = none := by
  cases i with
  | initializeBus c f => simp [badConfiguration, h c f rfl]
  | _ => rfl

theorem badConfiguration_of_touchesBus (h : touchesBus i = true) : badConfiguration i = none :=
  badConfiguration_eq_none fun c f hi => by subst hi; cases h

/-- Outside the nine bus commands the matrix has no condition. -/
theorem admittedIn_of_not_touchesBus (h : touchesBus i = false) (fs : Framing) (dir : Dir) :
    admittedIn i fs dir = true := by
  cases i
  case initializeBus | registerOwnAddress | enable | enableAck | start | stop | txa | txd | rxn | rxa => rfl
  all_goals cases h

theorem admission_eq_none (hconfig : ∀ c f, i = .initializeBus c f → divisor c f ≠ none)
    (hbus : touchesBus i = true → s.cr.en = true ∧ admittedIn i s.fs s.dir = true) : admission i s = none := by
  rw [admission, badConfiguration_eq_none hconfig]
  cases htouch : touchesBus i with
  | false => simp [admittedIn_of_not_touchesBus htouch]
  | true =>
    obtain ⟨hen, hadmitted⟩ := hbus htouch
    simp [hen, hadmitted]

theorem admission_configError {c f : Nat} (h : divisor c f = none) :
    admission (.initializeBus c f) s = some (.configError c f) := by
  simp [admission, badConfiguration, h]

theorem admission_notEnabled (htouch : touchesBus i = true) (hen : s.cr.en = false) :
    admission i s = some (.notEnabled i) := by
  simp [admission, badConfiguration_of_touchesBus htouch, htouch, hen]

theorem admission_protocolFault (htouch : touchesBus i = true) (hen : s.cr.en = true)
    (hadmitted : admittedIn i s.fs s.dir = false) : admission i s = some (.protocolFault i s.fs s.dir) := by
  simp [admission, badConfiguration_of_touchesBus htouch, hen, hadmitted]

/-! ### Issue (R140 step 1) -/

theorem exec_admitted (hi : i.isCommand = true) (hf : s.flt = none) (hb : s.seq.busy = false)
    (ha : admission i s = none) : exec i s = .next (s.capture i) := by
  simp [exec_command hi, runCommand, hf, hb, ha]

theorem exec_refused {r : Fault} (hi : i.isCommand = true) (hf : s.flt = none) (hb : s.seq.busy = false)
    (ha : admission i s = some r) : exec i s = .next (s.raise r) := by
  simp [exec_command hi, runCommand, hf, hb, ha]

/-- Settles O8: under its hypotheses no check refuses the command. -/
theorem admittedCommandIsCaptured : Obligations.AdmittedCommandIsCaptured :=
  fun _ _ hi hf hb hconfig hbus => exec_admitted hi hf hb (admission_eq_none hconfig hbus)

/-- Check (1) comes before decoding. -/
theorem step_issue_busy (bytes : List Byte) (rest : List Turn) (hf : s.flt = none) (hb : s.seq.busy = true) :
    step { s with schedule := .issue bytes :: rest } =
      .next (({ s with schedule := rest } : State).raise (.reentrancy (.command bytes))) := by
  simp [step, whileLive, hf, takeTurn, takeIssue, hb]

/-- The issue of a command that check (3), (4) or (5) refuses. -/
theorem step_issue_refused {r : Fault} (rest : List Turn) (hf : s.flt = none) (hb : s.seq.busy = false)
    (hd : decodeCommand bytes = .ok i) (ha : admission i s = some r) :
    step { s with schedule := .issue bytes :: rest } = .next (({ s with schedule := rest } : State).raise r) :=
  (step_issue bytes rest i hf hb hd).trans (exec_refused (decodeCommand_isCommand hd) hf hb ha)

/-- Settles O9, check by check. -/
theorem issueChecksInOrder : Obligations.IssueChecksInOrder := by
  intro s bytes rest hf hs
  have present : step s = step { s with schedule := .issue bytes :: rest } := by rw [← hs]
  refine ⟨fun hb => ?reentrancy, fun hb => ⟨fun ⟨e, hd⟩ => ?illegalCommand, fun c f hd hdiv => ?configError,
    fun i hd htouch hen => ?notEnabled, fun i hd htouch hen hadmitted => ?protocolFault⟩⟩
  all_goals rw [present]
  case reentrancy => exact step_issue_busy bytes rest hf hb
  case illegalCommand => exact step_issue_illegal rest hf hb hd
  case configError => exact step_issue_refused rest hf hb hd (admission_configError hdiv)
  case notEnabled => exact step_issue_refused rest hf hb hd (admission_notEnabled htouch hen)
  case protocolFault => exact step_issue_refused rest hf hb hd (admission_protocolFault htouch hen hadmitted)

/-! ### The micro-step a command is at (R140 step 2) -/

theorem exec_of_closed_guard {g : Guard} (hf : s.flt = none) (hb : s.seq.busy = true)
    (hi : s.seq.cmd.isCommand = true) (hcur : s.currentGuard = some g) (hg : g.isOpen s = false) :
    exec s.seq.cmd s = .next s := by
  obtain ⟨m, hm, rfl⟩ := Option.map_eq_some_iff.1 hcur
  exact exec_hold hi hf hb rfl hm hg

/-- Settles O37, for the two guards that can be closed. -/
theorem closedGuardHolds : Obligations.ClosedGuardHolds := by
  rintro s hf hb hi (⟨hcur, hrdy⟩ | ⟨hcur, hfs⟩)
  · exact exec_of_closed_guard hf hb hi hcur hrdy
  · have closed : Guard.holdIdle.isOpen s = false := Bool.eq_false_iff.2 (mt (Framing.isIdle_iff s.fs).1 hfs)
    exact exec_of_closed_guard hf hb hi hcur closed

/-- A command at micro-step `n`, whose guard is open and whose act succeeds. -/
theorem exec_act {m : MicroStep} {n : Nat} (hi : i.isCommand = true) (hf : s.flt = none) (hb : s.seq.busy = true)
    (hc : s.seq.cmd = i) (hn : s.seq.mpc = n) (hm : microAt (program i) n = some m) (hg : m.guard.isOpen s = true)
    (ha : m.act s = .ok t) : exec i s = .next t := by
  rw [exec_micro hi hf hb hc (hn.symm ▸ hm) hg, ha, settle_ok]

/-- A trigger at micro-step `n` falls through to the next one in the state its `CR` write leaves. -/
theorem State.trigger_of_writeCR {v : Byte} {n : Nat} (h : s.writeCR v = .ok t) (hn : s.seq.mpc = n) :
    s.trigger v = .ok { t with seq := { s.seq with mpc := n + 1 } } := by
  rw [State.trigger, h, ← hn, ← State.writeCR_seq h]; rfl

/-! ### The micro-steps of the primitives -/

/-- Settles O28: the START opens as in every command that opens a transaction, and the response follows. -/
theorem sendStartSteps : Obligations.SendStartSteps := fun _ hf hb hc =>
  ⟨fun hn hfs => exec_openStep rfl rfl hf hb hc hn hfs, fun hn hrdy => exec_act rfl hf hb hc hn rfl hrdy rfl⟩

/-- Settles O29: an open transaction accepts the STOP, and the response is in the same step. -/
theorem sendStopSteps : Obligations.SendStopSteps := fun _ hf hb hc hn hfs =>
  exec_act rfl hf hb hc hn rfl rfl (State.finish_of_writeCR (State.writeCR_stop hfs) true [])

/-- Settles O30: the transmit's one control value is accepted as `TXA` or `TXD` by the framing state. -/
theorem writeByteSteps : Obligations.WriteByteSteps := by
  intro b s hf hb hc
  refine ⟨fun hn hfs => ?address, fun k hn hfs hdir => ?data, fun hn hrdy => ?response⟩
  case address =>
    exact exec_act rfl hf hb hc hn rfl rfl (State.trigger_of_writeCR (State.writeCR_txa (s := s.writeDR b) hfs) hn)
  case data =>
    exact exec_act rfl hf hb hc hn rfl rfl (State.trigger_of_writeCR (State.writeCR_txd (s := s.writeDR b) hfs hdir) hn)
  case response => exact exec_act rfl hf hb hc hn rfl hrdy rfl

/-- Settles O31, read by read: `RXA` or `RXN`, then the byte. -/
theorem readByteSteps : Obligations.ReadByteSteps := by
  rintro i ack s (⟨rfl, rfl⟩ | ⟨rfl, rfl⟩) hf hb hc
  · exact ⟨fun k hn hfs hdir =>
        exec_act rfl hf hb hc hn rfl rfl (State.trigger_of_writeCR (State.writeCR_rxa hfs hdir) hn),
      fun hn hrdy => exec_act rfl hf hb hc hn rfl hrdy rfl⟩
  · exact ⟨fun k hn hfs hdir =>
        exec_act rfl hf hb hc hn rfl rfl (State.trigger_of_writeCR (State.writeCR_rxn hfs hdir) hn),
      fun hn hrdy => exec_act rfl hf hb hc hn rfl hrdy rfl⟩

/-- The own-address byte has the layout of an address byte for writing, its low bit clear (R101, R102). -/
theorem ownAddressByte_eq_sla (a : Addr7) : ownAddressByte a = sla a .w := BitVec.or_zero.symm

/-- Settles O32: the `ENABLE_ACK` write succeeds in every framing state; the byte is `sla`'s with direction bit 0. -/
theorem registerOwnAddressSteps : Obligations.RegisterOwnAddressSteps := by
  refine ⟨fun a s hf hb hc hn => ?_, fun a => ?_, by decide⟩
  · exact exec_act rfl hf hb hc hn rfl rfl (State.finish_of_writeCR (State.writeCR_enableAck _) true [])
  · rw [ownAddressByte_eq_sla, sla_toNat]; rfl

end Sys2Proof.Machine
end

section
/-! PROOFS. The composed transactions (42_transactions.md), first part: the framing of `TRACE` (R168). An event is
recorded only where the framing state has got to it, and a `CR` write moves the framing state without one. -/

namespace Sys2Proof.Machine

open Sys2Proof

variable {s t : State}

/-! ### The framing automaton (R168) -/

/-- One more event is read from where the trace before it has got. -/
theorem traceFrame_append (l : List BusEvent) (e : BusEvent) : traceFrame (l ++ [e]) = frameEvent (traceFrame l) e := by
  simp [traceFrame]

/-- The transaction at the end of a trace is open: its START was seen, and no STOP. -/
def openFrame (t : List BusEvent) : Prop :=
  traceFrame t = some .opened ∨ ∃ d k, traceFrame t = some (.addressed d k)

/-- A STOP closes an open transaction. -/
theorem traceFrame_stop {l : List BusEvent} (h : openFrame l) : traceFrame (l ++ [.stop]) = some .closed := by
  rw [traceFrame_append]
  obtain h | ⟨d, k, h⟩ := h <;> simp [h, frameEvent]

namespace State.framed

/-- The framing reads `FS`, `DIR` and `TRACE` alone. -/
theorem congr (h : s.framed) (fs : t.fs = s.fs) (dir : t.dir = s.dir) (trace : t.trace = s.trace) : t.framed := by
  rwa [State.framed, fs, dir, trace]

theorem closed (h : s.framed) (hfs : s.fs = .idle) : traceFrame s.trace = some .closed := by
  rwa [State.framed, hfs] at h

theorem opened (h : s.framed) (hfs : s.fs = .started ∨ s.fs = .addressPhase) : traceFrame s.trace = some .opened := by
  obtain hfs | hfs := hfs <;> rwa [State.framed, hfs] at h

theorem addressed {k : Nat} (h : s.framed) (hfs : s.fs = .dataPhase k) :
    traceFrame s.trace = some (.addressed s.dir k) := by
  rwa [State.framed, hfs] at h

theorem openFrame_of_stopped (h : s.framed) (hfs : s.fs = .stopped) : openFrame s.trace := by
  rwa [State.framed, hfs] at h

/-- A transaction that a STOP can be sent in is open. -/
theorem openFrame_of_open (h : s.framed) (hfs : s.fs = .started ∨ ∃ k, s.fs = .dataPhase k) : openFrame s.trace := by
  obtain hfs | ⟨k, hfs⟩ := hfs
  · exact .inl (h.opened (.inl hfs))
  · exact .inr ⟨s.dir, k, h.addressed hfs⟩

/-- The framing moves `CR` writes make without an event: none, to the address phase, to a STOP. -/
theorem of_write (h : s.framed) (dir : t.dir = s.dir) (trace : t.trace = s.trace)
    (move : t.fs = s.fs ∨ (s.fs = .started ∧ t.fs = .addressPhase) ∨
      ((s.fs = .started ∨ ∃ k, s.fs = .dataPhase k) ∧ t.fs = .stopped)) : t.framed := by
  obtain fs | ⟨hs, ht⟩ | ⟨hs, ht⟩ := move
  · exact h.congr fs dir trace
  · rw [State.framed, ht, trace]; exact h.opened (.inl hs)
  · rw [State.framed, ht, trace]; exact h.openFrame_of_open hs

theorem writeCR {v : Byte} (h : s.framed) (hw : s.writeCR v = .ok t) : t.framed := by
  obtain ⟨-, ⟨-, rfl⟩ | ⟨-, ⟨-, rfl⟩ | ⟨hfs, rfl⟩ | ⟨hfs, rfl⟩ | ⟨-, -, rfl⟩ | ⟨-, -, rfl⟩⟩⟩ := State.writeCR_cases hw
  case inr.inr.inl => exact h.of_write rfl rfl (.inr (.inr ⟨hfs, rfl⟩))
  case inr.inr.inr.inl => exact h.of_write rfl rfl (.inr (.inl ⟨hfs, rfl⟩))
  all_goals exact h.congr rfl rfl rfl

theorem commandMove (h : s.framed) (hm : CommandMove s t) : t.framed := by
  cases hm with
  | hold | respond | configure => exact h.congr rfl rfl rfl
  | stop sq ok payload cmd busy guard framing => exact h.of_write rfl rfl (.inr (.inr ⟨framing, rfl⟩))
  | trigger dr acken sta pend fs sq cmd busy guard next which =>
    refine h.of_write rfl rfl ?_
    obtain ⟨-, -, e, -⟩ | ⟨-, hs, e⟩ | ⟨-, -, -, e⟩ | ⟨-, -, -, e⟩ := which
    case inr.inl => exact .inr (.inl ⟨hs, e⟩)
    all_goals exact .inl e

/-- A completion records the event of its operation, which is the one the automaton reads there. -/
theorem takeAnswer (h : s.framed) (inv : EngineInvariant s) (a : Answer) : (s.takeAnswer a).framed := by
  obtain e | ⟨r, hp, -, e⟩ | ⟨r, hp, -, e⟩ | ⟨r, k, hp, -, hk, e⟩ | ⟨o, b, k, hp, -, hk, e⟩ := s.takeAnswer_cases a
  all_goals rw [e]
  · exact h
  · simp [State.framed, traceFrame_append, h.closed (inv.start_idle hp), frameEvent]
  · simp [State.framed, traceFrame_append, h.opened (.inr (inv.txAddr_iff.1 hp)), frameEvent]
  · obtain ⟨dir, -⟩ := inv.txData_write hp
    simp [State.framed, traceFrame_append, h.addressed hk, dir, frameEvent]
  · obtain ⟨dir, -⟩ := inv.rx_read hp
    simp [State.framed, traceFrame_append, h.addressed hk, dir, frameEvent]

theorem takeStopCompletion (h : s.framed) : s.takeStopCompletion.framed := by
  obtain ⟨e, -⟩ | ⟨hfs, e⟩ := s.takeStopCompletion_cases <;> rw [e]
  · exact h
  · exact traceFrame_stop (h.openFrame_of_stopped hfs)

end State.framed

/-- Settles O45: answers and STOP completions record the event the framing has got to; every other effect records
none, and moves `FS` as a `CR` write does. -/
theorem traceFramingKept : Obligations.TraceFramingKept := by
  intro s t inv h hstep
  obtain ⟨rest, -, rfl⟩ | effect := step_effect hstep
  · exact rfl
  · have h : s.consumeTurn.framed := h.congr rfl rfl rfl
    cases effect with
    | keep | capture => exact h.congr rfl rfl rfl
    | answer a => exact h.takeAnswer inv.consumeTurn a
    | stopCompletion => exact h.takeStopCompletion
    | write v _ written => exact h.writeCR written
    | command _ busy move => exact h.commandMove move

end Sys2Proof.Machine
end

section
/-! PROOFS. The composed transactions, second part: their micro-steps (R161 to R164). The first two are those of every
composed command; each of the others is one control value, which the framing state and direction accept. -/

namespace Sys2Proof.Machine

open Sys2Proof

variable {s : State}

/-- Settles O33: TXD after the address byte, whatever its result, then STOP. -/
theorem writeByteToSteps : Obligations.WriteByteToSteps := by
  intro a d s hf hb hc
  refine ⟨exec_openStep rfl rfl hf hb hc, exec_addressStep rfl rfl hf hb hc, fun k hn hrdy hfs hdir => ?send,
    fun k hn hrdy hfs => ?close⟩
  case send =>
    exact exec_act rfl hf hb hc hn rfl hrdy
      (State.trigger_of_writeCR (State.writeCR_txd (s := s.foldStatus.writeDR d) hfs hdir) hn)
  case close =>
    exact exec_act rfl hf hb hc hn rfl hrdy
      (State.finish_of_writeCR (State.writeCR_stop (s := s.foldStatus) (.inr ⟨k, hfs⟩)) _ _)

/-- Settles O34: RXN after the address byte, whatever its result, then STOP. -/
theorem readByteFromSteps : Obligations.ReadByteFromSteps := by
  intro a s hf hb hc
  refine ⟨exec_openStep rfl rfl hf hb hc, exec_addressStep rfl rfl hf hb hc, fun k hn hrdy hfs hdir => ?receive,
    fun k hn hrdy hfs => ?close⟩
  case receive =>
    exact exec_act rfl hf hb hc hn rfl hrdy
      (State.trigger_of_writeCR (State.writeCR_rxn (s := s.foldStatus) hfs hdir) hn)
  case close =>
    exact exec_act rfl hf hb hc hn rfl hrdy
      (State.finish_of_writeCR (State.writeCR_stop (s := s.setRx [s.dr]) (.inr ⟨k, hfs⟩)) _ _)

/-! ### The loop steps of `writeBuffer` and `readBuffer`, case by case (R163, R164) -/

/-- The fold, where its result is known. -/
theorem State.foldStatus_eq {ok : Bool} (hok : s.foldStatus.seq.ok = ok) :
    s.foldStatus = { s with seq := { s.seq with s := s.readSR &&& 0xF8, ok := ok } } := by
  rw [← hok]; rfl

theorem writeBufferLoop_failed (a : Addr7) (bytes : List Byte) (hok : s.foldStatus.seq.ok = false) :
    writeBufferLoop a bytes s = s.foldStatus.finish 0x94 false [] := by
  simp only [writeBufferLoop, hok, Bool.not_false, if_true]

theorem writeBufferLoop_done (a : Addr7) {bytes : List Byte} (hok : s.foldStatus.seq.ok = true)
    (hidx : s.foldStatus.seq.idx = bytes.length + 1) :
    writeBufferLoop a bytes s = s.foldStatus.finish 0x94 true [] := by
  simp only [writeBufferLoop, hok, hidx, Bool.not_true, Bool.false_eq_true, if_false, if_true]

theorem writeBufferLoop_next {a : Addr7} {bytes : List Byte} {b : Byte} (hok : s.foldStatus.seq.ok = true)
    (hb : (bufferBytes a bytes)[s.foldStatus.seq.idx]? = some b) :
    writeBufferLoop a bytes s =
      ((s.foldStatus.writeDR b).writeCR 0x84).map (·.setIdx (s.foldStatus.seq.idx + 1)) := by
  have hidx : s.foldStatus.seq.idx ≠ bytes.length + 1 := by
    obtain ⟨h, -⟩ := List.getElem?_eq_some_iff.1 hb
    exact h.ne
  simp only [writeBufferLoop, hok, hidx, hb, Bool.not_true, Bool.false_eq_true, if_false]

theorem readBufferFirst_zero (s : State) : readBufferFirst 0 s = s.foldStatus.finish 0x94 s.foldStatus.seq.ok [] := by
  simp only [readBufferFirst, if_true]

theorem readBufferFirst_next {n : Nat} {v : Byte} (hn : 0 < n) (hv : rxControl n s.foldStatus.seq.idx = some v) :
    readBufferFirst n s = s.foldStatus.trigger v := by
  simp only [readBufferFirst, hn.ne', hv, if_false]

/-- The byte received is taken, and counted. -/
def State.takeByte (s : State) : State := (s.setRx (s.seq.rx ++ [s.dr])).setIdx (s.seq.idx + 1)

theorem readBufferLoop_done {n : Nat} (hidx : s.takeByte.seq.idx = n) :
    readBufferLoop n s = s.takeByte.finish 0x94 s.takeByte.seq.ok s.takeByte.seq.rx :=
  if_pos hidx

theorem readBufferLoop_next {n : Nat} {v : Byte} (hidx : s.takeByte.seq.idx < n)
    (hv : rxControl n s.takeByte.seq.idx = some v) : readBufferLoop n s = s.takeByte.writeCR v := by
  have hv : rxControl n (s.seq.idx + 1) = some v := hv
  have hidx : s.seq.idx + 1 ≠ n := hidx.ne
  simp [readBufferLoop, State.takeByte, hidx, hv]

/-- The receive that reads byte `i` of `n` is accepted, with ACK for every byte but the last (R164). -/
theorem State.writeCR_rxControl {n i k : Nat} (hi : i < n) (hfs : s.fs = .dataPhase k) (hdir : s.dir = .r) :
    ∃ v, rxControl n i = some v ∧
      s.writeCR v = .ok { s with cr := ⟨false, decide (i + 1 < n), false, true⟩, pend := .rx } := by
  by_cases hlast : i + 1 < n
  · exact ⟨0xC4, if_pos hlast, by rw [State.writeCR_rxa hfs hdir, decide_eq_true hlast]⟩
  · have last : i + 1 = n := by omega
    exact ⟨0x84, by simp [rxControl, last], by rw [State.writeCR_rxn hfs hdir, decide_eq_false hlast]⟩

/-- Settles O35: the loop step in its three cases, each with its one control value. -/
theorem writeBufferSteps : Obligations.WriteBufferSteps := by
  intro a bytes s hf hb hc
  have loop {t : State} (hn : s.seq.mpc = 3) (hrdy : s.cr.rdy = true) (h : writeBufferLoop a bytes s = .ok t) :
      exec (.writeBuffer a bytes) s = .next t := exec_act rfl hf hb hc hn rfl hrdy h
  refine ⟨exec_openStep rfl rfl hf hb hc, fun hn hrdy hfs => ?address, fun k hn hrdy hfs hok => ?failed,
    fun k hn hrdy hfs hok hidx => ?done, fun k b hn hrdy hfs hdir hok hget => ?next⟩
  case address =>
    refine exec_act rfl hf hb hc hn rfl hrdy ?_
    simp only [State.transmit, State.trigger_of_writeCR (State.writeCR_txa (s := s.writeDR (sla a .w)) hfs) hn]
    rfl
  case failed =>
    refine loop hn hrdy ((writeBufferLoop_failed a bytes hok).trans ?_)
    rw [State.finish_of_writeCR (State.writeCR_stop (s := s.foldStatus) (.inr ⟨k, hfs⟩)), State.foldStatus_eq hok]
    rfl
  case done =>
    refine loop hn hrdy ((writeBufferLoop_done a hok hidx).trans ?_)
    rw [State.finish_of_writeCR (State.writeCR_stop (s := s.foldStatus) (.inr ⟨k, hfs⟩)), State.foldStatus_eq hok]
    rfl
  case next =>
    refine loop hn hrdy ((writeBufferLoop_next hok hget).trans ?_)
    rw [State.writeCR_txd (s := s.foldStatus.writeDR b) hfs hdir, State.foldStatus_eq hok]
    rfl

/-- Settles O36: the first receive and the loop step, each with the acknowledgment of the byte it reads. -/
theorem readBufferSteps : Obligations.ReadBufferSteps := by
  intro a n s hf hb hc
  have first {t : State} (hn : s.seq.mpc = 3) (hrdy : s.cr.rdy = true) (h : readBufferFirst n s = .ok t) :
      exec (.readBuffer a n) s = .next t := exec_act rfl hf hb hc hn rfl hrdy h
  have loop {t : State} (hn : s.seq.mpc = 4) (hrdy : s.cr.rdy = true) (h : readBufferLoop n s = .ok t) :
      exec (.readBuffer a n) s = .next t := exec_act rfl hf hb hc hn rfl hrdy h
  refine ⟨exec_openStep rfl rfl hf hb hc, exec_addressStep rfl rfl hf hb hc, fun k hn hrdy hfs hlen => ?empty,
    fun k hn hrdy hfs hdir hidx hlen => ?first, fun k hn hrdy hfs hidx => ?last,
    fun k hn hrdy hfs hdir hidx => ?next⟩
  case empty =>
    subst hlen
    exact first hn hrdy ((readBufferFirst_zero s).trans
      (State.finish_of_writeCR (State.writeCR_stop (s := s.foldStatus) (.inr ⟨k, hfs⟩)) _ _))
  case first =>
    have idx : s.foldStatus.seq.idx = 0 := hidx
    obtain ⟨v, hv, hw⟩ := State.writeCR_rxControl (s := s.foldStatus) hlen hfs hdir
    rw [← idx] at hv
    rw [first hn hrdy ((readBufferFirst_next hlen hv).trans (State.trigger_of_writeCR hw hn)), Nat.zero_add]
    rfl
  case last =>
    exact loop hn hrdy ((readBufferLoop_done hidx).trans
      (State.finish_of_writeCR (State.writeCR_stop (s := s.takeByte) (.inr ⟨k, hfs⟩)) _ _))
  case next =>
    obtain ⟨v, hv, hw⟩ := State.writeCR_rxControl (s := s.takeByte) hidx hfs hdir
    exact loop hn hrdy ((readBufferLoop_next hidx hv).trans hw)

end Sys2Proof.Machine
end

section
/-! PROOFS. The composed transactions, third part: every step keeps the executing command in phase (R160, R192). An
admitted command starts in its first phase; a micro-step, where its guard is open, is one of the steps the commands are
known to take, and leaves the next phase; the engine turns a pending operation into a completed one, which is the same
phase. -/

namespace Sys2Proof.Machine

open Sys2Proof

variable {s t : State} {i : Instr}

/-! ### What `RDY` tells in a phase: the operation has completed -/

namespace EngineInvariant

variable (inv : EngineInvariant s) (hrdy : s.cr.rdy = true)
include inv hrdy

theorem quiet_of_ready : s.pend = .none := by
  by_contra hp
  simp [inv.pending_notReady hp] at hrdy

theorem started_of_ready (h : s.opening) : s.fs = .started := by
  simpa [State.opening, inv.quiet_of_ready hrdy, hrdy] using h

theorem data_of_addressing {d : Dir} (h : s.addressing d) : s.dir = d ∧ ∃ k, s.fs = .dataPhase k := by
  simpa [State.addressing, inv.quiet_of_ready hrdy, hrdy] using h

theorem data_of_sending (h : s.sending) : s.dir = .w ∧ ∃ k, s.fs = .dataPhase k := by
  simpa [State.sending, inv.quiet_of_ready hrdy, hrdy] using h

theorem data_of_receiving (h : s.receiving) : s.dir = .r ∧ ∃ k, s.fs = .dataPhase k := by
  simpa [State.receiving, inv.quiet_of_ready hrdy, hrdy] using h

end EngineInvariant

/-! ### The executing command's own step -/

/-- The next step of command `i` raises no fault, and leaves it in phase or ends it. -/
def StepsInPhase (i : Instr) (s : State) : Prop :=
  ∃ t, exec i s = .next t ∧ t.flt = none ∧ (t.seq.busy = true → t.inPhase)

section
variable (h : s.inPhase) (hf : s.flt = none) (hb : s.seq.busy = true)

section
variable (hc : s.seq.cmd = i) (hi : i.isCommand = true)
include h hf hb hc hi

/-- A micro-step with a closed guard stays in its phase. -/
theorem stepsInPhase_of_open {n : Nat} {m : MicroStep} (hn : s.seq.mpc = n) (hm : microAt (program i) n = some m)
    (acts : m.guard.isOpen s = true → StepsInPhase i s) : StepsInPhase i s := by
  cases hg : m.guard.isOpen s with
  | true => exact acts hg
  | false => exact ⟨s, exec_hold hi hf hb hc (hn ▸ hm) hg, hf, fun _ => h⟩

/-- The opening step of every command that opens a transaction leaves its START pending. -/
theorem stepsInPhase_openStep (hn : s.seq.mpc = 1) (hm : microAt (program i) 1 = some openStep)
    (next : ∀ t : State, t.seq = { s.seq with mpc := 2 } → t.opening → t.inPhase) : StepsInPhase i s :=
  stepsInPhase_of_open h hf hb hc hi hn hm fun hg =>
    ⟨_, exec_openStep hi hm hf hb hc hn ((Framing.isIdle_iff _).1 hg), hf, fun _ => next _ rfl (.inl rfl)⟩

/-- The address step of the composed commands leaves the address byte pending. -/
theorem stepsInPhase_addressStep (inv : EngineInvariant s) {a : Addr7} {d : Dir} (hn : s.seq.mpc = 2)
    (hm : microAt (program i) 2 = some (addressStep a d)) (hop : s.opening)
    (next : ∀ t : State, t.seq = { s.seq with mpc := 3 } → t.addressing d → t.inPhase) : StepsInPhase i s :=
  stepsInPhase_of_open h hf hb hc hi hn hm fun hrdy =>
    ⟨_, exec_addressStep hi hm hf hb hc hn hrdy (inv.started_of_ready hrdy hop), hf,
      fun _ => next _ rfl (.inl ⟨rfl, dirOf_sla a d⟩)⟩

end

include h hf hb

theorem stepsInPhase_initializeBus {c f : Nat} (hc : s.seq.cmd = .initializeBus c f) :
    StepsInPhase (.initializeBus c f) s := by
  match hn : s.seq.mpc with
  | 0 | n + 2 => simp [State.inPhase, hc, hn] at h
  | 1 =>
    obtain ⟨-, defined⟩ : s.pend = .none ∧ divisor c f ≠ none := by simpa [State.inPhase, hc, hn] using h
    obtain ⟨d, hd⟩ := Option.ne_none_iff_exists'.1 defined
    exact ⟨_, initializeSteps c f d s hf hd hb hc hn, hf, nofun⟩

theorem stepsInPhase_registerOwnAddress {a : Addr7} (hc : s.seq.cmd = .registerOwnAddress a) :
    StepsInPhase (.registerOwnAddress a) s := by
  match hn : s.seq.mpc with
  | 0 | n + 2 => simp [State.inPhase, hc, hn] at h
  | 1 => exact ⟨_, registerOwnAddressSteps.1 a s hf hb hc hn, hf, nofun⟩

theorem stepsInPhase_sendStart (hc : s.seq.cmd = .sendStart) : StepsInPhase .sendStart s := by
  obtain ⟨-, respond⟩ := sendStartSteps s hf hb hc
  match hn : s.seq.mpc with
  | 0 | n + 3 => simp [State.inPhase, hc, hn] at h
  | 1 => exact stepsInPhase_openStep h hf hb hc rfl hn rfl fun t e hop => by simpa [State.inPhase, e, hc] using hop
  | 2 => exact stepsInPhase_of_open h hf hb hc rfl hn rfl fun hrdy => ⟨_, respond hn hrdy, hf, nofun⟩

theorem stepsInPhase_sendStop (hc : s.seq.cmd = .sendStop) : StepsInPhase .sendStop s := by
  match hn : s.seq.mpc with
  | 0 | n + 2 => simp [State.inPhase, hc, hn] at h
  | 1 =>
    obtain ⟨-, hfs⟩ : s.pend = .none ∧ (s.fs = .started ∨ ∃ k, s.fs = .dataPhase k) := by
      simpa [State.inPhase, hc, hn] using h
    exact ⟨_, sendStopSteps s hf hb hc hn hfs, hf, nofun⟩

theorem stepsInPhase_writeByte {b : Byte} (hc : s.seq.cmd = .writeByte b) : StepsInPhase (.writeByte b) s := by
  obtain ⟨address, data, respond⟩ := writeByteSteps b s hf hb hc
  match hn : s.seq.mpc with
  | 0 | n + 3 => simp [State.inPhase, hc, hn] at h
  | 1 =>
    obtain ⟨-, hfs | ⟨hdir, k, hfs⟩⟩ :
        s.pend = .none ∧ (s.fs = .started ∨ (s.dir = .w ∧ ∃ k, s.fs = .dataPhase k)) := by
      simpa [State.inPhase, hc, hn] using h
    · exact ⟨_, address hn hfs, hf, fun _ => by simp [State.inPhase, hc, State.awaited]⟩
    · exact ⟨_, data k hn hfs hdir, hf, fun _ => by simp [State.inPhase, hc, State.awaited]⟩
  | 2 => exact stepsInPhase_of_open h hf hb hc rfl hn rfl fun hrdy => ⟨_, respond hn hrdy, hf, nofun⟩

theorem stepsInPhase_readByte {ack : Bool}
    (which : (i = .readByteAck ∧ ack = true) ∨ (i = .readByteNoAck ∧ ack = false)) (hc : s.seq.cmd = i) :
    StepsInPhase i s := by
  obtain ⟨receive, respond⟩ := readByteSteps i ack s which hf hb hc
  obtain ⟨rfl, -⟩ | ⟨rfl, -⟩ := which
  all_goals
    match hn : s.seq.mpc with
    | 0 | n + 3 => simp [State.inPhase, hc, hn] at h
    | 1 =>
      obtain ⟨-, hdir, k, hfs⟩ : s.pend = .none ∧ s.dir = .r ∧ ∃ k, s.fs = .dataPhase k := by
        simpa [State.inPhase, hc, hn] using h
      exact ⟨_, receive k hn hfs hdir, hf, fun _ => by simp [State.inPhase, hc, State.awaited]⟩
    | 2 => exact stepsInPhase_of_open h hf hb hc rfl hn rfl fun hrdy => ⟨_, respond hn hrdy, hf, nofun⟩

variable (inv : EngineInvariant s)
include inv

theorem stepsInPhase_writeByteTo {a : Addr7} {d : Byte} (hc : s.seq.cmd = .writeByteTo a d) :
    StepsInPhase (.writeByteTo a d) s := by
  obtain ⟨-, -, send, close⟩ := writeByteToSteps a d s hf hb hc
  match hn : s.seq.mpc with
  | 0 | n + 5 => simp [State.inPhase, hc, hn] at h
  | 1 => exact stepsInPhase_openStep h hf hb hc rfl hn rfl fun t e hop => by simpa [State.inPhase, e, hc] using hop
  | 2 =>
    have phase : s.opening := by simpa [State.inPhase, hc, hn] using h
    exact stepsInPhase_addressStep h hf hb hc rfl inv hn rfl phase fun t e ha => by
      simpa [State.inPhase, e, hc] using ha
  | 3 =>
    have phase : s.addressing .w := by simpa [State.inPhase, hc, hn] using h
    refine stepsInPhase_of_open h hf hb hc rfl hn rfl fun hrdy => ?_
    obtain ⟨hdir, k, hfs⟩ := inv.data_of_addressing hrdy phase
    exact ⟨_, send k hn hrdy hfs hdir, hf, fun _ => by simp [State.inPhase, hc, State.sending]⟩
  | 4 =>
    have phase : s.sending := by simpa [State.inPhase, hc, hn] using h
    refine stepsInPhase_of_open h hf hb hc rfl hn rfl fun hrdy => ?_
    obtain ⟨-, k, hfs⟩ := inv.data_of_sending hrdy phase
    exact ⟨_, close k hn hrdy hfs, hf, nofun⟩

theorem stepsInPhase_readByteFrom {a : Addr7} (hc : s.seq.cmd = .readByteFrom a) :
    StepsInPhase (.readByteFrom a) s := by
  obtain ⟨-, -, receive, close⟩ := readByteFromSteps a s hf hb hc
  match hn : s.seq.mpc with
  | 0 | n + 5 => simp [State.inPhase, hc, hn] at h
  | 1 => exact stepsInPhase_openStep h hf hb hc rfl hn rfl fun t e hop => by simpa [State.inPhase, e, hc] using hop
  | 2 =>
    have phase : s.opening := by simpa [State.inPhase, hc, hn] using h
    exact stepsInPhase_addressStep h hf hb hc rfl inv hn rfl phase fun t e ha => by
      simpa [State.inPhase, e, hc] using ha
  | 3 =>
    have phase : s.addressing .r := by simpa [State.inPhase, hc, hn] using h
    refine stepsInPhase_of_open h hf hb hc rfl hn rfl fun hrdy => ?_
    obtain ⟨hdir, k, hfs⟩ := inv.data_of_addressing hrdy phase
    exact ⟨_, receive k hn hrdy hfs hdir, hf, fun _ => by simp [State.inPhase, hc, State.receiving]⟩
  | 4 =>
    have phase : s.receiving := by simpa [State.inPhase, hc, hn] using h
    refine stepsInPhase_of_open h hf hb hc rfl hn rfl fun hrdy => ?_
    obtain ⟨-, k, hfs⟩ := inv.data_of_receiving hrdy phase
    exact ⟨_, close k hn hrdy hfs, hf, nofun⟩

theorem stepsInPhase_writeBuffer {a : Addr7} {bytes : List Byte} (hc : s.seq.cmd = .writeBuffer a bytes) :
    StepsInPhase (.writeBuffer a bytes) s := by
  obtain ⟨-, address, failed, done, next⟩ := writeBufferSteps a bytes s hf hb hc
  match hn : s.seq.mpc with
  | 0 | n + 4 => simp [State.inPhase, hc, hn] at h
  | 1 => exact stepsInPhase_openStep h hf hb hc rfl hn rfl fun t e hop => by simpa [State.inPhase, e, hc] using hop
  | 2 =>
    have phase : s.opening := by simpa [State.inPhase, hc, hn] using h
    refine stepsInPhase_of_open h hf hb hc rfl hn rfl fun hrdy => ?_
    exact ⟨_, address hn hrdy (inv.started_of_ready hrdy phase), hf, fun _ => by
      simp [State.inPhase, hc, State.addressing]⟩
  | 3 =>
    obtain ⟨phase, first, last⟩ : (s.addressing .w ∨ s.sending) ∧ 1 ≤ s.seq.idx ∧ s.seq.idx ≤ bytes.length + 1 := by
      simpa [State.inPhase, hc, hn] using h
    refine stepsInPhase_of_open h hf hb hc rfl hn rfl fun hrdy => ?_
    obtain ⟨hdir, k, hfs⟩ := phase.elim (inv.data_of_addressing hrdy) (inv.data_of_sending hrdy)
    cases hok : s.seq.ok && ackOk (s.readSR &&& 0xF8) with
    | false => exact ⟨_, failed k hn hrdy hfs hok, hf, nofun⟩
    | true =>
      obtain hidx | hidx := last.eq_or_lt
      · exact ⟨_, done k hn hrdy hfs hok hidx, hf, nofun⟩
      · have hget : (sla a .w :: bytes)[s.seq.idx]? = some (sla a .w :: bytes)[s.seq.idx] :=
          List.getElem?_eq_getElem hidx
        exact ⟨_, next k _ hn hrdy hfs hdir hok hget, hf, fun _ => by
          simp [State.inPhase, hc, hn, State.sending]; omega⟩

theorem stepsInPhase_readBuffer {a : Addr7} {n : Nat} (hc : s.seq.cmd = .readBuffer a n) :
    StepsInPhase (.readBuffer a n) s := by
  obtain ⟨-, -, empty, first, last, next⟩ := readBufferSteps a n s hf hb hc
  match hn : s.seq.mpc with
  | 0 | m + 5 => simp [State.inPhase, hc, hn] at h
  | 1 =>
    obtain ⟨-, hidx⟩ : s.beforeOpening ∧ s.seq.idx = 0 := by simpa [State.inPhase, hc, hn] using h
    exact stepsInPhase_openStep h hf hb hc rfl hn rfl fun t e hop => by
      simpa [State.inPhase, e, hc, hidx] using hop
  | 2 =>
    obtain ⟨phase, hidx⟩ : s.opening ∧ s.seq.idx = 0 := by simpa [State.inPhase, hc, hn] using h
    exact stepsInPhase_addressStep h hf hb hc rfl inv hn rfl phase fun t e ha => by
      simpa [State.inPhase, e, hc, hidx] using ha
  | 3 =>
    obtain ⟨phase, hidx⟩ : s.addressing .r ∧ s.seq.idx = 0 := by simpa [State.inPhase, hc, hn] using h
    refine stepsInPhase_of_open h hf hb hc rfl hn rfl fun hrdy => ?_
    obtain ⟨hdir, k, hfs⟩ := inv.data_of_addressing hrdy phase
    obtain hlen | hlen := n.eq_zero_or_pos
    · exact ⟨_, empty k hn hrdy hfs hlen, hf, nofun⟩
    · exact ⟨_, first k hn hrdy hfs hdir hidx hlen, hf, fun _ => by
        simp [State.inPhase, hc, State.receiving, hidx, hlen]⟩
  | 4 =>
    obtain ⟨phase, hidx⟩ : s.receiving ∧ s.seq.idx < n := by simpa [State.inPhase, hc, hn] using h
    refine stepsInPhase_of_open h hf hb hc rfl hn rfl fun hrdy => ?_
    obtain ⟨hdir, k, hfs⟩ := inv.data_of_receiving hrdy phase
    obtain hend | hmore := Nat.eq_or_lt_of_le hidx
    · exact ⟨_, last k hn hrdy hfs hend, hf, nofun⟩
    · exact ⟨_, next k hn hrdy hfs hdir hmore, hf, fun _ => by
        simp [State.inPhase, hc, hn, State.receiving, hmore]⟩

/-- Whatever command executes, in phase its step raises no fault and leaves it in phase or ends it. -/
theorem stepsInPhase : StepsInPhase s.seq.cmd s := by
  cases hc : s.seq.cmd with
  | initializeBus c f => exact stepsInPhase_initializeBus h hf hb hc
  | sendStart => exact stepsInPhase_sendStart h hf hb hc
  | sendStop => exact stepsInPhase_sendStop h hf hb hc
  | writeByte b => exact stepsInPhase_writeByte h hf hb hc
  | readByteAck => exact stepsInPhase_readByte h hf hb (.inl ⟨rfl, rfl⟩) hc
  | readByteNoAck => exact stepsInPhase_readByte h hf hb (.inr ⟨rfl, rfl⟩) hc
  | registerOwnAddress a => exact stepsInPhase_registerOwnAddress h hf hb hc
  | writeByteTo a d => exact stepsInPhase_writeByteTo h hf hb inv hc
  | readByteFrom a => exact stepsInPhase_readByteFrom h hf hb inv hc
  | writeBuffer a bytes => exact stepsInPhase_writeBuffer h hf hb inv hc
  | readBuffer a n => exact stepsInPhase_readBuffer h hf hb inv hc
  | _ => simp [State.inPhase, hc] at h

end

/-! ### The engine's steps -/

/-- `t` is `s` with the pending operation, or the STOP in progress, moved on: every phase the block is in lasts. -/
structure KeepsPhases (s t : State) : Prop where
  seq : t.seq = s.seq
  quiet : s.pend = .none → t.pend = .none
  framing : s.pend = .none → s.fs ≠ .stopped → t.fs = s.fs ∧ t.dir = s.dir
  beforeOpening : s.beforeOpening → t.beforeOpening
  opening : s.opening → t.opening
  addressing (d : Dir) : s.addressing d → t.addressing d
  sending : s.sending → t.sending
  receiving : s.receiving → t.receiving
  awaited : s.awaited → t.awaited

/-- Row by row of `State.inPhase`: a row asks for one of the phases, or for nothing pending in a framing state other
than `Stopped`, and of the sequencer's record for what no such step changes. -/
theorem State.inPhase.kept (h : s.inPhase) (k : KeepsPhases s t) : t.inPhase := by
  obtain ⟨seq, quiet, framing, beforeOpening, opening, addressing, sending, receiving, awaited⟩ := k
  unfold State.inPhase at h ⊢
  rw [seq]
  generalize s.seq.cmd = cmd, s.seq.mpc = mpc at h ⊢
  split at h <;> grind

/-- What the phases do not read may change. -/
theorem KeepsPhases.of_eq (seq : t.seq = s.seq) (fs : t.fs = s.fs) (dir : t.dir = s.dir) (pend : t.pend = s.pend)
    (rdy : t.cr.rdy = s.cr.rdy) (dr : t.dr = s.dr) : KeepsPhases s t := by
  constructor <;>
    simp only [State.beforeOpening, State.opening, State.addressing, State.sending, State.receiving, State.awaited, *,
      and_self, imp_self, implies_true]

/-- A completion leaves the block, `RDY` set, where the phase of its operation says (R192). -/
theorem KeepsPhases.of_completed (seq : t.seq = s.seq) (pend : t.pend = .none) (rdy : t.cr.rdy = true)
    (which : (s.pend = .start ∧ t.fs = .started) ∨
      (s.pend = .txAddr ∧ t.dir = dirOf s.dr ∧ ∃ k, t.fs = .dataPhase k) ∨
      (s.pend = .txData ∧ t.dir = .w ∧ ∃ k, t.fs = .dataPhase k) ∨
      (s.pend = .rx ∧ t.dir = .r ∧ ∃ k, t.fs = .dataPhase k)) : KeepsPhases s t := by
  obtain ⟨hp, hfs⟩ | ⟨hp, hdir, hfs⟩ | ⟨hp, hdir, hfs⟩ | ⟨hp, hdir, hfs⟩ := which <;> constructor <;>
    simp [State.beforeOpening, State.opening, State.addressing, State.sending, State.receiving, State.awaited, *]

/-- A STOP in progress is a phase of a command that has not opened its transaction. -/
theorem KeepsPhases.of_stopped (seq : t.seq = s.seq) (quiet : s.pend = .none) (pend : t.pend = .none)
    (rdy : t.cr.rdy = s.cr.rdy) (stopped : s.fs = .stopped) (idle : t.fs = .idle) : KeepsPhases s t := by
  constructor <;>
    simp [State.beforeOpening, State.opening, State.addressing, State.sending, State.receiving, State.awaited, *]

namespace EngineInvariant

theorem keepsPhases_takeAnswer (inv : EngineInvariant s) (a : Answer) : KeepsPhases s (s.takeAnswer a) := by
  obtain e | ⟨r, hp, -, e⟩ | ⟨r, hp, -, e⟩ | ⟨r, k, hp, -, -, e⟩ | ⟨o, b, k, hp, -, -, e⟩ := s.takeAnswer_cases a
  all_goals rw [e]
  · exact .of_eq rfl rfl rfl rfl rfl rfl
  · exact .of_completed rfl rfl rfl (.inl ⟨hp, rfl⟩)
  · exact .of_completed rfl rfl rfl (.inr (.inl ⟨hp, rfl, 0, rfl⟩))
  · exact .of_completed rfl rfl rfl (.inr (.inr (.inl ⟨hp, (inv.txData_write hp).1, k + 1, rfl⟩)))
  · exact .of_completed rfl rfl rfl (.inr (.inr (.inr ⟨hp, (inv.rx_read hp).1, k + 1, rfl⟩)))

theorem keepsPhases_takeStopCompletion (inv : EngineInvariant s) : KeepsPhases s s.takeStopCompletion := by
  obtain ⟨e, -⟩ | ⟨hfs, e⟩ := s.takeStopCompletion_cases
  all_goals rw [e]
  · exact .of_eq rfl rfl rfl rfl rfl rfl
  · have hp := inv.quiet_of_stopped hfs
    exact .of_stopped rfl hp hp rfl hfs rfl

end EngineInvariant

/-! ### Issue -/

/-- What check (3) and check (5) of an admitted command found (R141). -/
theorem admitted_of_admission (ha : admission i s = none) :
    badConfiguration i = none ∧ admittedIn i s.fs s.dir = true := by
  unfold admission at ha
  grind

/-- A command admitted with nothing pending starts in its first phase: the admission matrix is what that phase asks. -/
theorem inPhase_capture (hi : i.isCommand = true) (hp : s.pend = .none) (ha : admission i s = none) :
    (s.capture i).inPhase := by
  obtain ⟨hconfig, hadm⟩ := admitted_of_admission ha
  cases i
  case initializeBus c f => simpa [State.inPhase, hp, badConfiguration] using hconfig
  case registerOwnAddress a => exact hp
  case sendStart | writeByteTo | readByteFrom | writeBuffer => exact ⟨hp, (opensIn_iff _).1 hadm⟩
  case readBuffer => exact ⟨⟨hp, (opensIn_iff _).1 hadm⟩, rfl⟩
  case sendStop =>
    rw [admittedIn, Bool.or_eq_true, Framing.isStarted_iff, Framing.isData_iff] at hadm
    exact ⟨hp, hadm⟩
  case writeByte =>
    rw [admittedIn, Bool.or_eq_true, Framing.isStarted_iff, isData_and_dir_iff] at hadm
    exact ⟨hp, hadm⟩
  case readByteAck | readByteNoAck => exact ⟨hp, (isData_and_dir_iff _ _ _).1 hadm⟩
  all_goals cases hi

/-! ### The invariant -/

/-- Settles O43: the command's own step is one of the steps it takes in phase; the engine's steps and a control write
that triggers nothing keep the phase; an orderly host triggers nothing else while a command executes. -/
theorem sequencerStaysInPhase : Obligations.SequencerStaysInPhase := by
  intro s t ⟨inv, phase⟩ ho hstep
  refine ⟨engineInvariantKept s t inv ho hstep, fun hb => ?_⟩
  cases step_cases hstep with
  | reset rest => cases hb
  | raise r live => exact (phase hb).kept (.of_eq rfl rfl rfl rfl rfl rfl)
  | idle live => exact (phase hb).kept (.of_eq rfl rfl rfl rfl rfl rfl)
  | answer a rest =>
    rw [State.takeAnswer_seq] at hb
    have phase : ({ s with schedule := rest } : State).inPhase := phase hb
    exact phase.kept ((inv.keep s.flt rest).keepsPhases_takeAnswer a)
  | stop live =>
    rw [State.takeStopCompletion_seq] at hb
    have phase : s.consumeTurn.inPhase := phase hb
    exact phase.kept inv.consumeTurn.keepsPhases_takeStopCompletion
  | capture i bytes rest live sched free decodes admitted =>
    exact inPhase_capture (decodeCommand_isCommand decodes) (ho.2 bytes rest sched free) admitted
  | control v rest _ live sched written =>
    rw [State.writeCR_seq written] at hb
    obtain ⟨-, ⟨h7, rfl⟩ | ⟨h7, -⟩⟩ := State.writeCR_cases written
    · have rdy := State.writeCR_rdy written
      rw [h7, Bool.not_false, Bool.and_true] at rdy
      exact (phase hb).kept (.of_eq rfl rfl rfl rfl rdy rfl)
    · obtain ⟨-, free⟩ := ho.quiet_of_written sched written h7
      cases free.symm.trans hb
  | command _ live busy isCommand turn ran move =>
    have phase : s.consumeTurn.inPhase := phase busy
    obtain ⟨u, hu, -, next⟩ := stepsInPhase phase live busy inv.consumeTurn
    cases ran.symm.trans hu
    exact next hb
  | rawBusy _ live busy notCommand => simp [inv.busy_command busy] at notCommand

end Sys2Proof.Machine
end

section
/-! PROOFS. The composed transactions, fourth part: runs. A run is put together from its turns, whatever turns follow;
the state of a run is read as a block (the registers, the engine, `ABN` and `TRACE`) with a sequencer's record and the
responses so far, which the bus does not see. What a turn does to the block is then said once, for the composed commands
and for the primitive sequences alike (R106, R167). -/

namespace Sys2Proof.Machine

open Sys2Proof

variable {s t u b c : State} {i : Instr} {q q' : Seq} {o o' : List Response} {a : Answer}

/-! ### Runs, turn by turn -/

/-- Played from `s`, the turns lead to `t`, whatever turns follow. -/
def Plays (turns : List Turn) (s t : State) : Prop :=
  ∀ rest, runTurns (turns ++ rest) s = runTurns rest t

theorem Plays.nil (s : State) : Plays [] s s := fun _ => rfl

theorem Plays.append {first second : List Turn} (h : Plays first s u) (h' : Plays second u t) :
    Plays (first ++ second) s t := fun rest => by
  rw [List.append_assoc, h, h']

theorem Plays.run {turns : List Turn} (h : Plays turns s t) : runTurns turns s = .next { t with schedule := [] } := by
  simpa using h []

theorem plays_turn {turn : Turn}
    (h : ∀ rest, step { s with schedule := turn :: rest } = .next { t with schedule := rest }) : Plays [turn] s t :=
  fun rest => runTurns_cons (h rest)

/-! ### A block, its sequencer and its responses -/

/-- The block `b` with the sequencer's record `q` and the responses `o`. -/
def State.withSeq (b : State) (q : Seq) (o : List Response) : State := { b with seq := q, out := o }

theorem takeAnswer_congr (b : State) (q : Seq) (o : List Response) (sch : List Turn) (a : Answer) :
    ({ b with seq := q, out := o, schedule := sch } : State).takeAnswer a =
      { b.takeAnswer a with seq := q, out := o, schedule := sch } := by
  unfold State.takeAnswer
  dsimp only
  split <;> rfl

theorem takeStopCompletion_congr (b : State) (q : Seq) (o : List Response) (sch : List Turn) :
    ({ b with seq := q, out := o, schedule := sch } : State).takeStopCompletion =
      { b.takeStopCompletion with seq := q, out := o, schedule := sch } := by
  unfold State.takeStopCompletion
  dsimp only
  split <;> rfl

/-- The issue of an admitted command captures it (R140 step 1). -/
theorem plays_issue (hi : i.isCommand = true) (hw : i.wellFormed = true) (hf : b.flt = none) (hb : q.busy = false)
    (ha : admission i b = none) :
    Plays [issueTurn i] (b.withSeq q o) (b.withSeq ⟨true, i, 1, 0, true, [], q.s⟩ o) := by
  obtain ⟨bytes, he, hd⟩ := decodeCommand_encode hi hw
  rw [issueTurn, he]
  exact plays_turn fun rest => (step_issue (s := b.withSeq q o) bytes rest i hf hb hd).trans
    (exec_admitted hi hf hb ha)

/-- The sequencer executes command `i` and is at its micro-step `n`. -/
structure Seq.isAt (q : Seq) (i : Instr) (n : Nat) : Prop where
  busy : q.busy = true
  cmd : q.cmd = i
  mpc : q.mpc = n

/-- The executing command takes its turn. -/
theorem plays_sequencer {n : Nat} (hf : b.flt = none) (hq : q.isAt i n)
    (h : ∀ rest, exec i { b.withSeq q o with schedule := rest } = .next { c.withSeq q' o' with schedule := rest }) :
    Plays [.sequencer] (b.withSeq q o) (c.withSeq q' o') := by
  obtain ⟨hb, rfl, -⟩ := hq
  exact plays_turn fun rest => (step_sequencer (s := b.withSeq q o) rest hf hb).trans (h rest)

theorem plays_answer (hf : b.flt = none) : Plays [.answer a] (b.withSeq q o) ((b.takeAnswer a).withSeq q o) :=
  plays_turn fun rest => (step_answer (s := b.withSeq q o) a rest hf).trans
    (congrArg _ (takeAnswer_congr b q o rest a))

theorem plays_stopCompletion (hf : b.flt = none) :
    Plays [.stopCompletion] (b.withSeq q o) (b.takeStopCompletion.withSeq q o) :=
  plays_turn fun rest => (step_stopCompletion (s := b.withSeq q o) rest hf).trans
    (congrArg _ (takeStopCompletion_congr b q o rest))

/-- A micro-step that triggers an operation, and the bus's answer to it. -/
theorem plays_answered {n : Nat} (hf : b.flt = none) (hf' : c.flt = none) (hq : q.isAt i n)
    (h : ∀ rest, exec i { b.withSeq q o with schedule := rest } = .next { c.withSeq q' o with schedule := rest }) :
    Plays (answered a) (b.withSeq q o) ((c.takeAnswer a).withSeq q' o) :=
  (plays_sequencer hf hq h).append (plays_answer hf')

/-! ### What a transaction does to the block

Each is a trigger and the bus's answer to it; the STOP completes on its own. -/

def State.afterStart (b : State) (r : StartAnswer) : State :=
  ({ b with cr := ⟨false, false, true, true⟩, pend := .start } : State).takeAnswer (.start r)

def State.afterAddress (b : State) (a : Addr7) (d : Dir) (r : TxAnswer) : State :=
  ({ b with dr := sla a d, cr := ⟨false, false, false, true⟩, pend := .txAddr, fs := .addressPhase } : State).takeAnswer
    (.tx r)

def State.afterSend (b : State) (v : Byte) (r : TxAnswer) : State :=
  ({ b with dr := v, cr := ⟨false, false, false, true⟩, pend := .txData } : State).takeAnswer (.tx r)

def State.afterReceive (b : State) (ack : Bool) (r : RxOutcome) (v : Byte) : State :=
  ({ b with cr := ⟨false, ack, false, true⟩, pend := .rx } : State).takeAnswer (.rx r v)

def State.afterStop (b : State) : State :=
  ({ b with cr := ⟨false, false, false, true⟩, fs := .stopped } : State).takeStopCompletion

/-- A START and an address byte. -/
def State.opened (b : State) (a : Addr7) (d : Dir) (r0 : StartAnswer) (r1 : TxAnswer) : State :=
  (b.afterStart r0).afterAddress a d r1

/-- The status of the last byte reports an acknowledgment (R104). -/
def State.acked (b : State) : Bool := ackOk (b.readSR &&& 0xF8)

/-- A transaction of direction `d` is open and the engine is done with its last byte. -/
structure State.inData (b : State) (d : Dir) : Prop where
  live : b.flt = none
  enabled : b.cr.en = true
  ready : b.cr.rdy = true
  quiet : b.pend = .none
  dir : b.dir = d
  data : ∃ k, b.fs = .dataPhase k

variable {d : Dir}

/-- In the data phase a byte sent completes there. -/
theorem State.afterSend_completes (hfs : ∃ k, b.fs = .dataPhase k) (v : Byte) (r : TxAnswer) : ∃ k, b.afterSend v r =
    ({ b with dr := v, cr := ⟨false, false, false, true⟩, pend := .txData } : State).completeTxd k r := by
  obtain ⟨k, hfs⟩ := hfs
  exact ⟨k, by simp [State.afterSend, State.takeAnswer, hfs]⟩

theorem State.afterReceive_completes (hfs : ∃ k, b.fs = .dataPhase k) (ack : Bool) (r : RxOutcome) (v : Byte) :
    ∃ k, b.afterReceive ack r v =
      ({ b with cr := ⟨false, ack, false, true⟩, pend := .rx } : State).completeRx k r v := by
  obtain ⟨k, hfs⟩ := hfs
  exact ⟨k, by simp [State.afterReceive, State.takeAnswer, hfs]⟩

theorem State.opened_inData (hf : b.flt = none) (a : Addr7) (d : Dir) (r0 : StartAnswer) (r1 : TxAnswer) :
    (b.opened a d r0 r1).inData d :=
  ⟨hf, rfl, rfl, rfl, dirOf_sla a d, 0, rfl⟩

theorem State.inData.afterSend (h : b.inData d) (v : Byte) (r : TxAnswer) : (b.afterSend v r).inData d := by
  obtain ⟨k, e⟩ := State.afterSend_completes h.data v r
  rw [e]
  exact ⟨h.live, rfl, rfl, rfl, h.dir, k + 1, rfl⟩

theorem State.inData.afterReceive (h : b.inData d) (ack : Bool) (r : RxOutcome) (v : Byte) :
    (b.afterReceive ack r v).inData d := by
  obtain ⟨k, e⟩ := State.afterReceive_completes h.data ack r v
  rw [e]
  exact ⟨h.live, rfl, rfl, rfl, h.dir, k + 1, rfl⟩

/-- The status after the address byte is its answer (R190). -/
theorem State.opened_acked (b : State) (a : Addr7) (d : Dir) (r0 : StartAnswer) (r1 : TxAnswer) :
    (b.opened a d r0 r1).acked = decide (r1 = .ack) := by
  change ackOk (txaCode (dirOf (sla a d)) r1 ++ 0#3 &&& 0xF8) = _
  rw [dirOf_sla, ackOk_txaCode]

theorem State.inData.afterSend_acked (h : b.inData d) (v : Byte) (r : TxAnswer) :
    (b.afterSend v r).acked = decide (r = .ack) := by
  obtain ⟨k, e⟩ := State.afterSend_completes h.data v r
  rw [e]
  exact ackOk_txdCode r

theorem State.opened_trace (b : State) (a : Addr7) (d : Dir) (r0 : StartAnswer) (r1 : TxAnswer) :
    (b.opened a d r0 r1).trace = b.trace ++ openingEvents a d r1 :=
  List.append_assoc b.trace [.start] [.tx .addr (sla a d) r1]

/-- What a byte sent leaves in the registers and the histories (R186, R193). -/
theorem State.inData.afterSend_fields (h : b.inData d) (v : Byte) (r : TxAnswer) :
    (b.afterSend v r).dr = v ∧ (b.afterSend v r).abn = (b.abn || r.abnormal) ∧
      (b.afterSend v r).trace = b.trace ++ [.tx .data v r] ∧ (b.afterSend v r).brr = b.brr ∧
      (b.afterSend v r).oar = b.oar := by
  obtain ⟨k, e⟩ := State.afterSend_completes h.data v r
  rw [e]
  exact ⟨rfl, rfl, rfl, rfl, rfl⟩

/-- What a byte received leaves there (R188, R193). -/
theorem State.inData.afterReceive_fields (h : b.inData d) (ack : Bool) (r : RxOutcome) (v : Byte) :
    (b.afterReceive ack r v).dr = v ∧ (b.afterReceive ack r v).abn = (b.abn || r.abnormal) ∧
      (b.afterReceive ack r v).trace = b.trace ++ [.rx v ack r] ∧ (b.afterReceive ack r v).brr = b.brr ∧
      (b.afterReceive ack r v).oar = b.oar := by
  obtain ⟨k, e⟩ := State.afterReceive_completes h.data ack r v
  rw [e]
  exact ⟨rfl, rfl, rfl, rfl, rfl⟩

/-- What a closed transaction leaves on view: no information in `SR`, no transaction in `CR` (R189). -/
theorem State.inData.afterStop_busView (h : b.inData d) : b.afterStop.busView =
    ((b.brr, 0x04, 0xF8, b.dr, b.oar), .idle, d, .none, b.abn, b.trace ++ [.stop]) := by
  have cr : b.afterStop.readCR = 0x04 := (by decide : 0#1 ++ 0#1 ++ 0#1 ++ 0#1 ++ 0#1 ++ 1#1 ++ 0#2 = 0x04#8)
  have sr : b.afterStop.readSR = 0xF8 := (by decide : noInfo ++ 0#3 = 0xF8)
  rw [State.busView, cr, sr, ← h.dir, ← h.quiet]
  rfl

/-! ### Commands run to their response -/

/-- From the record `q` of an executing command the turns end the command: the block becomes `c`, and the responses `rs`
are delivered. -/
def Ends (turns : List Turn) (b : State) (q : Seq) (c : State) (rs : List Response) : Prop :=
  ∀ o, ∃ q', q'.busy = false ∧ Plays turns (b.withSeq q o) (c.withSeq q' (o ++ rs))

/-- From a free sequencer the turns run their commands to the end. -/
def Completes (turns : List Turn) (b c : State) (rs : List Response) : Prop :=
  ∀ q, q.busy = false → Ends turns b q c rs

variable {turns turns' : List Turn} {rs rs' : List Response}

theorem Ends.after (h : Ends turns' b q' c rs) (before : ∀ o, Plays turns (s.withSeq q o) (b.withSeq q' o)) :
    Ends (turns ++ turns') s q c rs := fun o =>
  let ⟨p, hp, hrun⟩ := h o
  ⟨p, hp, (before o).append hrun⟩

theorem Completes.append (h : Completes turns s b rs) (h' : Completes turns' b c rs') :
    Completes (turns ++ turns') s c (rs ++ rs') := fun q hq o => by
  obtain ⟨q₁, hq₁, run₁⟩ := h q hq o
  obtain ⟨q₂, hq₂, run₂⟩ := h' q₁ hq₁ (o ++ rs)
  rw [List.append_assoc] at run₂
  exact ⟨q₂, hq₂, run₁.append run₂⟩

theorem Completes.nil (b : State) : Completes [] b b [] := fun q hq o =>
  ⟨q, hq, by rw [List.append_nil]; exact .nil _⟩

/-- An admitted command, from its issue. -/
theorem Completes.of_issue (hi : i.isCommand = true) (hw : i.wellFormed = true) (hf : b.flt = none)
    (ha : admission i b = none) (h : ∀ st, Ends turns b ⟨true, i, 1, 0, true, [], st⟩ c rs) :
    Completes (issueTurn i :: turns) b c rs := fun q hq =>
  (h q.s).after fun _ => plays_issue hi hw hf hq ha

/-- The state a run ends in. -/
theorem Completes.run (h : Completes turns s b rs) (hb : s.seq.busy = false) :
    ∃ q, q.busy = false ∧ runTurns turns s = .next { b.withSeq q (s.out ++ rs) with schedule := [] } :=
  let ⟨q, hq, hrun⟩ := h s.seq hb s.out
  ⟨q, hq, hrun.run⟩

/-- The last micro-step of a primitive responds, and leaves the block alone. -/
theorem ends_respond {n : Nat} (hf : b.flt = none) (hq : q.isAt i n) (hb : q'.busy = false)
    (h : ∀ o rest, exec i { b.withSeq q o with schedule := rest } =
      .next { b.withSeq q' (o ++ rs) with schedule := rest }) : Ends [.sequencer] b q b rs := fun o =>
  ⟨q', hb, plays_sequencer hf hq (h o)⟩

/-- The last micro-step of a composed command, and of `sendStop`, sends a STOP and responds; then the STOP completes. -/
theorem ends_stop {n : Nat} (hf : b.flt = none) (hq : q.isAt i n) (hb : q'.busy = false)
    (h : ∀ o rest, exec i { b.withSeq q o with schedule := rest } =
      .next { ({ b with cr := ⟨false, false, false, true⟩, fs := .stopped } : State).withSeq q' (o ++ rs) with
        schedule := rest }) :
    Ends [.sequencer, .stopCompletion] b q b.afterStop rs := fun o =>
  ⟨q', hb, (plays_sequencer hf hq (h o)).append (plays_stopCompletion hf)⟩

theorem admission_of_touchesBus (ht : touchesBus i = true) (hen : b.cr.en = true)
    (hadm : admittedIn i b.fs b.dir = true) : admission i b = none := by
  simp [admission, badConfiguration_of_touchesBus ht, hen, hadm]

variable {idx n : Nat} {r0 : StartAnswer} {r1 r : TxAnswer} {v : Byte} {x : Addr7}

/-- The opening step of every command that opens a transaction. -/
theorem plays_start (hi : i.isCommand = true) (ho : microAt (program i) 1 = some openStep) (hf : b.flt = none)
    (hfs : b.fs = .idle) (hq : q.isAt i 1) :
    Plays (answered (.start r0)) (b.withSeq q o) ((b.afterStart r0).withSeq { q with mpc := 2 } o) :=
  plays_answered hf hf hq fun _ => exec_openStep hi ho hf hq.busy hq.cmd hq.mpc hfs

/-- The address step of the composed commands. -/
theorem plays_address (hi : i.isCommand = true) (ho : microAt (program i) 2 = some (addressStep x d))
    (hf : b.flt = none) (hq : q.isAt i 2) :
    Plays (answered (.tx r1)) ((b.afterStart r0).withSeq q o) ((b.opened x d r0 r1).withSeq { q with mpc := 3 } o) :=
  plays_answered (b := b.afterStart r0) hf hf hq fun _ => exec_addressStep hi ho hf hq.busy hq.cmd hq.mpc rfl rfl

theorem State.ready.live (h : s.ready) : s.flt = none := by
  obtain ⟨hf, -⟩ := h
  exact hf

/-- A composed command in a ready block: issue, START, address byte, and what follows to the STOP. -/
theorem completes_transaction {answers : List Answer} (hi : i.isCommand = true) (hw : i.wellFormed = true)
    (ho : microAt (program i) 1 = some openStep) (ht : touchesBus i = true)
    (hadm : ∀ dir, admittedIn i .idle dir = true) (h : s.ready)
    (address : ∀ st o, Plays (answered (.tx r1)) ((s.afterStart r0).withSeq ⟨true, i, 2, 0, true, [], st⟩ o)
      ((s.opened x d r0 r1).withSeq ⟨true, i, 3, idx, true, [], st⟩ o))
    (ends : ∀ st, Ends (answers.flatMap answered ++ [.sequencer, .stopCompletion]) (s.opened x d r0 r1)
      ⟨true, i, 3, idx, true, [], st⟩ c rs) :
    Completes (transactionTurns i (.start r0 :: .tx r1 :: answers)) s c rs := by
  obtain ⟨hf, hen, -, -, hfs⟩ := h
  have split : transactionTurns i (.start r0 :: .tx r1 :: answers) = issueTurn i ::
      (answered (.start r0) ++ (answered (.tx r1) ++ (answers.flatMap answered ++ [.sequencer, .stopCompletion]))) := by
    simp [transactionTurns, commandTurns]
  rw [split]
  refine .of_issue hi hw hf (admission_of_touchesBus ht hen (by rw [hfs]; exact hadm s.dir)) fun st => ?_
  exact ((ends st).after (address st)).after fun _ => plays_start hi ho hf hfs ⟨rfl, rfl, rfl⟩

/-! ### `writeByteTo` and `readByteFrom` (R161, R162) -/

theorem plays_writeByteTo_send (h : b.inData .w) (hq : q.isAt (.writeByteTo x v) 3) :
    Plays (answered (.tx r)) (b.withSeq q o)
      ((b.afterSend v r).withSeq { q with mpc := 4, s := b.readSR &&& 0xF8, ok := q.ok && b.acked } o) :=
  plays_answered h.live h.live hq fun rest => by
    obtain ⟨-, -, send, -⟩ := writeByteToSteps x v { b.withSeq q o with schedule := rest } h.live hq.busy hq.cmd
    obtain ⟨k, hk⟩ := h.data
    exact send k hq.mpc h.ready hk h.dir

theorem ends_writeByteTo_close (h : b.inData .w) (hq : q.isAt (.writeByteTo x v) 4) :
    Ends [.sequencer, .stopCompletion] b q b.afterStop [⟨q.ok && b.acked, []⟩] :=
  ends_stop (q' := { q with busy := false, s := b.readSR &&& 0xF8, ok := q.ok && b.acked }) h.live hq rfl
    fun o rest => by
      obtain ⟨-, -, -, close⟩ := writeByteToSteps x v { b.withSeq q o with schedule := rest } h.live hq.busy hq.cmd
      obtain ⟨k, hk⟩ := h.data
      exact close k hq.mpc h.ready hk

theorem completes_writeByteTo (h : s.ready) (x : Addr7) (r0 : StartAnswer) (r1 : TxAnswer) (v : Byte) (r : TxAnswer) :
    Completes (transactionTurns (.writeByteTo x v) [.start r0, .tx r1, .tx r]) s
      ((s.opened x .w r0 r1).afterSend v r).afterStop [⟨decide (r1 = .ack) && decide (r = .ack), []⟩] := by
  have hf := h.live
  have data := State.opened_inData hf x .w r0 r1
  rw [← s.opened_acked x .w r0 r1, ← data.afterSend_acked v r]
  exact completes_transaction rfl rfl rfl rfl (fun _ => rfl) h (fun _ _ => plays_address rfl rfl hf ⟨rfl, rfl, rfl⟩)
    fun _ => (ends_writeByteTo_close (data.afterSend v r) ⟨rfl, rfl, rfl⟩).after
      fun _ => plays_writeByteTo_send data ⟨rfl, rfl, rfl⟩

theorem plays_readByteFrom_receive {ro : RxOutcome} (h : b.inData .r) (hq : q.isAt (.readByteFrom x) 3) :
    Plays (answered (.rx ro v)) (b.withSeq q o)
      ((b.afterReceive false ro v).withSeq { q with mpc := 4, s := b.readSR &&& 0xF8, ok := q.ok && b.acked } o) :=
  plays_answered h.live h.live hq fun rest => by
    obtain ⟨-, -, receive, -⟩ := readByteFromSteps x { b.withSeq q o with schedule := rest } h.live hq.busy hq.cmd
    obtain ⟨k, hk⟩ := h.data
    exact receive k hq.mpc h.ready hk h.dir

theorem ends_readByteFrom_close (h : b.inData .r) (hq : q.isAt (.readByteFrom x) 4) (hdr : b.dr = v) :
    Ends [.sequencer, .stopCompletion] b q b.afterStop [⟨q.ok, [v]⟩] := by
  subst hdr
  refine ends_stop (q' := { q with busy := false, rx := [b.dr] }) h.live hq rfl fun o rest => ?_
  obtain ⟨-, -, -, close⟩ := readByteFromSteps x { b.withSeq q o with schedule := rest } h.live hq.busy hq.cmd
  obtain ⟨k, hk⟩ := h.data
  exact close k hq.mpc h.ready hk

theorem completes_readByteFrom (h : s.ready) (x : Addr7) (r0 : StartAnswer) (r1 : TxAnswer) (ro : RxOutcome)
    (v : Byte) : Completes (transactionTurns (.readByteFrom x) [.start r0, .tx r1, .rx ro v]) s
      ((s.opened x .r r0 r1).afterReceive false ro v).afterStop [⟨decide (r1 = .ack), [v]⟩] := by
  have hf := h.live
  have data := State.opened_inData hf x .r r0 r1
  obtain ⟨hdr, -⟩ := data.afterReceive_fields false ro v
  rw [← s.opened_acked x .r r0 r1]
  exact completes_transaction rfl rfl rfl rfl (fun _ => rfl) h (fun _ _ => plays_address rfl rfl hf ⟨rfl, rfl, rfl⟩)
    fun _ => (ends_readByteFrom_close (data.afterReceive false ro v) ⟨rfl, rfl, rfl⟩ hdr).after
      fun _ => plays_readByteFrom_receive data ⟨rfl, rfl, rfl⟩

/-- The end of a run that closes its transaction: the block is ready again, and on view as the STOP left it. -/
theorem Completes.run_transaction (hrun : Completes turns s b.afterStop rs) (h : s.ready) (data : b.inData d) :
    ∃ t, runTurns turns s = .next t ∧ t.trace = b.trace ++ [.stop] ∧ t.out = s.out ++ rs ∧ t.ready ∧
      t.busView = b.afterStop.busView := by
  obtain ⟨-, -, hb, -, -⟩ := h
  obtain ⟨q, hq, e⟩ := hrun.run hb
  exact ⟨_, e, rfl, rfl, ⟨data.live, rfl, hq, data.quiet, rfl⟩, rfl⟩

/-- Settles O55: the last byte and the STOP are what the block shows. -/
theorem byteTransactionRuns : Obligations.ByteTransactionRuns := by
  intro s x r0 r1 h
  have hf := h.live
  refine ⟨fun v r => ?write, fun ro v => ?read⟩
  case write =>
    have data := State.opened_inData hf x .w r0 r1
    obtain ⟨dr, abn, trace, brr, oar⟩ := data.afterSend_fields v r
    obtain ⟨t, hrun, htrace, hout, hready, hview⟩ :=
      (completes_writeByteTo h x r0 r1 v r).run_transaction h (data.afterSend v r)
    rw [trace, State.opened_trace] at htrace
    rw [(data.afterSend v r).afterStop_busView, dr, abn, brr, oar] at hview
    simp only [State.busView, Prod.mk.injEq] at hview
    obtain ⟨⟨hbrr, hcr, hsr, hdr, hoar⟩, -, -, -, habn, -⟩ := hview
    exact ⟨t, hrun, by simpa using htrace, by simpa using hout, hready, hdr, hcr, hsr, hbrr, hoar, habn⟩
  case read =>
    have data := State.opened_inData hf x .r r0 r1
    obtain ⟨dr, abn, trace, brr, oar⟩ := data.afterReceive_fields false ro v
    obtain ⟨t, hrun, htrace, hout, hready, hview⟩ :=
      (completes_readByteFrom h x r0 r1 ro v).run_transaction h (data.afterReceive false ro v)
    rw [trace, State.opened_trace] at htrace
    rw [(data.afterReceive false ro v).afterStop_busView, dr, abn, brr, oar] at hview
    simp only [State.busView, Prod.mk.injEq] at hview
    obtain ⟨⟨hbrr, hcr, hsr, hdr, hoar⟩, -, -, -, habn, -⟩ := hview
    exact ⟨t, hrun, by simpa using htrace, hout, hready, hdr, hcr, hsr, hbrr, hoar, habn⟩

end Sys2Proof.Machine
end

section
/-! PROOFS. The composed transactions, fifth part: the primitive sequences of R106, which do to the block what the
composed commands do (R167). -/

namespace Sys2Proof.Machine

open Sys2Proof

variable {s b c : State} {i : Instr} {q : Seq} {d : Dir} {a : Answer} {rs : List Response}
variable {r0 : StartAnswer} {r1 : TxAnswer}

/-! ### The primitives (R142 to R146) -/

/-- A primitive that triggers one operation and responds to its answer. -/
theorem completes_primitive (hi : i.isCommand = true) (hw : i.wellFormed = true) (ht : touchesBus i = true)
    (hf : b.flt = none) (hen : b.cr.en = true) (hadm : admittedIn i b.fs b.dir = true)
    (trigger : ∀ q o, q.isAt i 1 → Plays (answered a) (b.withSeq q o) (c.withSeq { q with mpc := 2 } o))
    (respond : ∀ q, q.isAt i 2 → Ends [.sequencer] c q c rs) : Completes (commandTurns i [a]) b c rs :=
  .of_issue hi hw hf (admission_of_touchesBus ht hen hadm) fun _ =>
    (respond _ ⟨rfl, rfl, rfl⟩).after fun o => trigger _ o ⟨rfl, rfl, rfl⟩

theorem completes_sendStart (h : b.ready) (r0 : StartAnswer) :
    Completes (commandTurns .sendStart [.start r0]) b (b.afterStart r0) [⟨true, []⟩] := by
  obtain ⟨hf, hen, -, -, hfs⟩ := h
  refine completes_primitive rfl rfl rfl hf hen (by rw [hfs]; rfl) (fun q o hq => plays_start rfl rfl hf hfs hq)
    fun q hq => ends_respond (q' := { q with busy := false }) hf hq rfl fun o rest => ?_
  obtain ⟨-, respond⟩ :=
    sendStartSteps { (b.afterStart r0).withSeq q o with schedule := rest } hf hq.busy hq.cmd
  exact respond hq.mpc rfl

/-- The last micro-step of `writeByte` reads the status of the byte sent. -/
theorem ends_writeByte {v : Byte} (hf : b.flt = none) (hrdy : b.cr.rdy = true) (hq : q.isAt (.writeByte v) 2) :
    Ends [.sequencer] b q b [⟨b.acked, []⟩] := by
  refine ends_respond (q' := { q with busy := false, s := b.readSR &&& 0xF8, ok := b.acked }) hf hq rfl fun o rest => ?_
  obtain ⟨-, -, respond⟩ := writeByteSteps v { b.withSeq q o with schedule := rest } hf hq.busy hq.cmd
  exact respond hq.mpc hrdy

theorem completes_writeByte_address (hf : b.flt = none) (x : Addr7) (d : Dir) (r0 : StartAnswer) (r1 : TxAnswer) :
    Completes (commandTurns (.writeByte (sla x d)) [.tx r1]) (b.afterStart r0) (b.opened x d r0 r1)
      [⟨decide (r1 = .ack), []⟩] := by
  rw [← b.opened_acked x d r0 r1]
  refine completes_primitive rfl rfl rfl hf rfl rfl (fun q o hq => ?_) fun q hq => ends_writeByte hf rfl hq
  refine plays_answered (b := b.afterStart r0) hf hf hq fun rest => ?_
  obtain ⟨address, -⟩ :=
    writeByteSteps (sla x d) { (b.afterStart r0).withSeq q o with schedule := rest } hf hq.busy hq.cmd
  exact address hq.mpc rfl

theorem completes_writeByte_data (h : b.inData .w) (v : Byte) (r : TxAnswer) :
    Completes (commandTurns (.writeByte v) [.tx r]) b (b.afterSend v r) [⟨decide (r = .ack), []⟩] := by
  obtain ⟨k, hk⟩ := h.data
  have next := h.afterSend v r
  rw [← h.afterSend_acked v r]
  refine completes_primitive rfl rfl rfl h.live h.enabled (by rw [hk, h.dir]; rfl) (fun q o hq => ?_)
    fun q hq => ends_writeByte next.live next.ready hq
  refine plays_answered h.live h.live hq fun rest => ?_
  obtain ⟨-, data, -⟩ := writeByteSteps v { b.withSeq q o with schedule := rest } h.live hq.busy hq.cmd
  exact data k hq.mpc hk h.dir

theorem completes_readByte {ack : Bool} (which : (i = .readByteAck ∧ ack = true) ∨ (i = .readByteNoAck ∧ ack = false))
    (h : b.inData .r) (r : RxOutcome) (v : Byte) :
    Completes (commandTurns i [.rx r v]) b (b.afterReceive ack r v) [⟨true, [v]⟩] := by
  obtain ⟨k, hk⟩ := h.data
  have next := h.afterReceive ack r v
  obtain ⟨dr, -⟩ := h.afterReceive_fields ack r v
  have steps (u : State) := readByteSteps i ack u which
  have trigger (q o) (hq : Seq.isAt q i 1) : Plays (answered (.rx r v)) (b.withSeq q o)
      ((b.afterReceive ack r v).withSeq { q with mpc := 2 } o) := by
    refine plays_answered h.live h.live hq fun rest => ?_
    obtain ⟨receive, -⟩ := steps { b.withSeq q o with schedule := rest } h.live hq.busy hq.cmd
    exact receive k hq.mpc hk h.dir
  have respond (q) (hq : Seq.isAt q i 2) : Ends [.sequencer] (b.afterReceive ack r v) q (b.afterReceive ack r v)
      [⟨true, [(b.afterReceive ack r v).dr]⟩] := by
    refine ends_respond (q' := { q with busy := false }) next.live hq rfl fun o rest => ?_
    obtain ⟨-, respond⟩ :=
      steps { (b.afterReceive ack r v).withSeq q o with schedule := rest } next.live hq.busy hq.cmd
    exact respond hq.mpc next.ready
  rw [dr] at respond
  have hadm : admittedIn i b.fs b.dir = true := by obtain ⟨rfl, -⟩ | ⟨rfl, -⟩ := which <;> rw [hk, h.dir] <;> rfl
  obtain ⟨rfl, -⟩ | ⟨rfl, -⟩ := which <;>
    exact completes_primitive rfl rfl rfl h.live h.enabled hadm trigger respond

theorem completes_sendStop (h : b.inData d) : Completes closingPrimitive b b.afterStop [⟨true, []⟩] := by
  obtain ⟨k, hk⟩ := h.data
  refine .of_issue (i := .sendStop) (turns := [.sequencer, .stopCompletion]) rfl rfl h.live
    (admission_of_touchesBus rfl h.enabled (by rw [hk]; rfl)) fun st => ?_
  refine ends_stop (i := .sendStop) (n := 1) (q' := ⟨false, .sendStop, 1, 0, true, [], st⟩) h.live ⟨rfl, rfl, rfl⟩ rfl
    fun o rest => ?_
  exact sendStopSteps { b.withSeq ⟨true, .sendStop, 1, 0, true, [], st⟩ o with schedule := rest } h.live rfl rfl rfl
    (.inr ⟨k, hk⟩)

/-- `sendStart(); writeByte(sla(a, d))` opens as the composed commands do. -/
theorem completes_opening (h : b.ready) (x : Addr7) (d : Dir) (r0 : StartAnswer) (r1 : TxAnswer) :
    Completes (openingPrimitives x d r0 r1) b (b.opened x d r0 r1) [⟨true, []⟩, ⟨decide (r1 = .ack), []⟩] := by
  have hf := h.live
  exact (completes_sendStart h r0).append (completes_writeByte_address hf x d r0 r1)

/-- Two runs that leave the same block leave the same view. -/
theorem Completes.run_both {turns turns' : List Turn} {rs rs' : List Response} (h : Completes turns s b rs)
    (h' : Completes turns' s b rs') (hs : s.ready) :
    ∃ t u, runTurns turns s = .next t ∧ runTurns turns' s = .next u ∧ t.busView = u.busView ∧
      t.out = s.out ++ rs ∧ u.out = s.out ++ rs' := by
  obtain ⟨-, -, hb, -, -⟩ := hs
  obtain ⟨q, -, hrun⟩ := h.run hb
  obtain ⟨q', -, hrun'⟩ := h'.run hb
  exact ⟨_, _, hrun, hrun', rfl, rfl, rfl⟩

/-- Settles O58: both sequences do the same to the block. -/
theorem byteTransactionsEqualPrimitives : Obligations.ByteTransactionsEqualPrimitives := by
  intro s x r0 r1 h
  have hf := h.live
  refine ⟨fun v r => ?write, fun ro v => ?read⟩
  case write =>
    have data := State.opened_inData hf x .w r0 r1
    have primitives := ((completes_opening h x .w r0 r1).append (completes_writeByte_data data v r)).append
      (completes_sendStop (data.afterSend v r))
    obtain ⟨t, u, hrun⟩ := (completes_writeByteTo h x r0 r1 v r).run_both primitives h
    exact ⟨t, u, _, _, hrun⟩
  case read =>
    have data := State.opened_inData hf x .r r0 r1
    have primitives := ((completes_opening h x .r r0 r1).append
      (completes_readByte (.inr ⟨rfl, rfl⟩) data ro v)).append (completes_sendStop (data.afterReceive false ro v))
    obtain ⟨t, u, hrun⟩ := (completes_readByteFrom h x r0 r1 ro v).run_both primitives h
    exact ⟨t, u, _, hrun⟩

end Sys2Proof.Machine
end

section
/-! PROOFS. The composed transactions, sixth part: `writeBuffer` (R163), by induction on the bytes acknowledged. -/

namespace Sys2Proof.Machine

open Sys2Proof

variable {s b : State} {q : Seq} {o : List Response} {x : Addr7} {bytes : List Byte} {v st : Byte} {r0 : StartAnswer}
variable {r r1 : TxAnswer} {sent unsent : List Byte}

/-! ### Bytes sent and acknowledged -/

/-- The block after it sent the bytes, each acknowledged. -/
def State.afterSendAll (b : State) (bytes : List Byte) : State := bytes.foldl (fun b v => b.afterSend v .ack) b

@[simp] theorem State.afterSendAll_nil (b : State) : b.afterSendAll [] = b := rfl

@[simp] theorem State.afterSendAll_cons (b : State) (v : Byte) (bytes : List Byte) :
    b.afterSendAll (v :: bytes) = (b.afterSend v .ack).afterSendAll bytes := rfl

theorem State.inData.afterSendAll (h : b.inData .w) (bytes : List Byte) : (b.afterSendAll bytes).inData .w := by
  induction bytes generalizing b with
  | nil => exact h
  | cons v bytes ih => exact ih (h.afterSend v .ack)

theorem State.inData.afterSendAll_acked (h : b.inData .w) (ha : b.acked = true) (bytes : List Byte) :
    (b.afterSendAll bytes).acked = true := by
  induction bytes generalizing b with
  | nil => exact ha
  | cons v bytes ih => exact ih (h.afterSend v .ack) (h.afterSend_acked v .ack)

theorem State.inData.afterSendAll_trace (h : b.inData .w) (bytes : List Byte) :
    (b.afterSendAll bytes).trace = b.trace ++ ackedEvents bytes := by
  induction bytes generalizing b with
  | nil => simp [ackedEvents]
  | cons v bytes ih =>
    obtain ⟨-, -, trace, -⟩ := h.afterSend_fields v .ack
    rw [State.afterSendAll_cons, ih (h.afterSend v .ack), trace, List.append_assoc]
    rfl

/-! ### The turns of `writeBuffer` -/

/-- Its address step points at the first byte of the payload. -/
theorem plays_writeBuffer_address (hf : b.flt = none) (hq : q.isAt (.writeBuffer x bytes) 2) :
    Plays (answered (.tx r1)) ((b.afterStart r0).withSeq q o)
      ((b.opened x .w r0 r1).withSeq { q with mpc := 3, idx := 1 } o) :=
  plays_answered (b := b.afterStart r0) hf hf hq fun rest => by
    obtain ⟨-, address, -⟩ :=
      writeBufferSteps x bytes { (b.afterStart r0).withSeq q o with schedule := rest } hf hq.busy hq.cmd
    exact address hq.mpc rfl rfl

/-- The loop step with every byte so far acknowledged and byte `v` next. -/
theorem plays_writeBuffer_send (h : b.inData .w) (hq : q.isAt (.writeBuffer x bytes) 3)
    (hok : q.ok = true) (ha : b.acked = true) (hv : (sla x .w :: bytes)[q.idx]? = some v) :
    Plays (answered (.tx r)) (b.withSeq q o)
      ((b.afterSend v r).withSeq { q with s := b.readSR &&& 0xF8, ok := true, idx := q.idx + 1 } o) :=
  plays_answered h.live h.live hq fun rest => by
    obtain ⟨-, -, -, -, next⟩ := writeBufferSteps x bytes { b.withSeq q o with schedule := rest } h.live hq.busy hq.cmd
    obtain ⟨k, hk⟩ := h.data
    exact next k v hq.mpc h.ready hk h.dir (Bool.and_eq_true_iff.2 ⟨hok, ha⟩) hv

/-- The loop step after the last byte, or after one not acknowledged. -/
theorem ends_writeBuffer (h : b.inData .w) (hq : q.isAt (.writeBuffer x bytes) 3) {ok : Bool}
    (hok : q.ok = true) (ha : b.acked = ok) (hlast : ok = true → q.idx = bytes.length + 1) :
    Ends [.sequencer, .stopCompletion] b q b.afterStop [⟨ok, []⟩] := by
  have fold : (q.ok && b.acked) = ok := by rw [hok, ha, Bool.true_and]
  refine ends_stop (q' := { q with busy := false, s := b.readSR &&& 0xF8, ok := ok }) h.live hq rfl fun o rest => ?_
  obtain ⟨-, -, failed, done, -⟩ :=
    writeBufferSteps x bytes { b.withSeq q o with schedule := rest } h.live hq.busy hq.cmd
  obtain ⟨k, hk⟩ := h.data
  cases ok with
  | false => exact failed k hq.mpc h.ready hk fold
  | true => exact done k hq.mpc h.ready hk fold (hlast rfl)

/-- The bytes `sent` after those `before` are sent one by one while each is acknowledged. -/
theorem plays_writeBuffer_sendAll {before : List Byte} (h : b.inData .w) (ha : b.acked = true)
    (hbytes : bytes = before ++ (sent ++ unsent)) : ∃ st', ∀ o, Plays ((ackAnswers sent.length).flatMap answered)
      (b.withSeq ⟨true, .writeBuffer x bytes, 3, before.length + 1, true, [], st⟩ o)
      ((b.afterSendAll sent).withSeq
        ⟨true, .writeBuffer x bytes, 3, (before ++ sent).length + 1, true, [], st'⟩ o) := by
  induction sent generalizing b before st with
  | nil => exact ⟨st, fun o => by rw [List.append_nil]; exact .nil _⟩
  | cons v sent ih =>
    have hv : (sla x .w :: bytes)[before.length + 1]? = some v := by simp [hbytes]
    obtain ⟨st', hrun⟩ := ih (b := b.afterSend v .ack) (before := before ++ [v]) (st := b.readSR &&& 0xF8)
      (h.afterSend v .ack) (h.afterSend_acked v .ack) (by simp [hbytes])
    rw [List.append_assoc, List.length_append] at hrun
    refine ⟨st', fun o => ?_⟩
    change Plays (answered (.tx .ack) ++ (ackAnswers sent.length).flatMap answered) _ _
    exact (plays_writeBuffer_send h ⟨rfl, rfl, rfl⟩ rfl ha hv).append (hrun o)

/-- From the address byte on, acknowledged. -/
theorem plays_writeBuffer_sent (hf : b.flt = none) (hbytes : bytes = sent ++ unsent) (st : Byte) : ∃ st', ∀ o,
    Plays ((ackAnswers sent.length).flatMap answered)
      ((b.opened x .w r0 .ack).withSeq ⟨true, .writeBuffer x bytes, 3, 1, true, [], st⟩ o)
      (((b.opened x .w r0 .ack).afterSendAll sent).withSeq
        ⟨true, .writeBuffer x bytes, 3, sent.length + 1, true, [], st'⟩ o) :=
  plays_writeBuffer_sendAll (before := []) (b.opened_inData hf x .w r0 .ack) (b.opened_acked x .w r0 .ack) hbytes

/-! ### The three runs of `writeBuffer` -/

section
variable (h : s.ready) (x : Addr7) (r0 : StartAnswer)
include h

theorem completes_writeBuffer {answers : List Answer} {c : State} {rs : List Response}
    (hw : (Instr.writeBuffer x bytes).wellFormed = true)
    (ends : ∀ st, Ends (answers.flatMap answered ++ [.sequencer, .stopCompletion]) (s.opened x .w r0 r1)
      ⟨true, .writeBuffer x bytes, 3, 1, true, [], st⟩ c rs) :
    Completes (transactionTurns (.writeBuffer x bytes) (.start r0 :: .tx r1 :: answers)) s c rs := by
  have hf := h.live
  exact completes_transaction rfl hw rfl rfl (fun _ => rfl) h
    (fun _ _ => plays_writeBuffer_address hf ⟨rfl, rfl, rfl⟩) ends

/-- Every byte acknowledged. -/
theorem completes_writeBuffer_acked (hw : (Instr.writeBuffer x bytes).wellFormed = true) :
    Completes (transactionTurns (.writeBuffer x bytes) (.start r0 :: ackAnswers (bytes.length + 1))) s
      ((s.opened x .w r0 .ack).afterSendAll bytes).afterStop [⟨true, []⟩] := by
  have hf := h.live
  have opened := State.opened_inData hf x .w r0 .ack
  have acked := opened.afterSendAll_acked (s.opened_acked x .w r0 .ack) bytes
  refine completes_writeBuffer (answers := ackAnswers bytes.length) h x r0 hw fun st => ?_
  obtain ⟨st', sends⟩ := plays_writeBuffer_sent (x := x) (r0 := r0) hf (List.append_nil bytes).symm st
  exact Ends.after (ends_writeBuffer (opened.afterSendAll bytes) ⟨rfl, rfl, rfl⟩ rfl acked fun _ => rfl) sends

/-- The address byte not acknowledged. -/
theorem completes_writeBuffer_unaddressed (hw : (Instr.writeBuffer x bytes).wellFormed = true) (hr : r ≠ .ack) :
    Completes (transactionTurns (.writeBuffer x bytes) [.start r0, .tx r]) s (s.opened x .w r0 r).afterStop
      [⟨false, []⟩] := by
  have hf := h.live
  have failed : (s.opened x .w r0 r).acked = false := by rw [s.opened_acked, decide_eq_false hr]
  exact completes_writeBuffer (answers := []) h x r0 hw fun _ =>
    ends_writeBuffer (State.opened_inData hf x .w r0 r) ⟨rfl, rfl, rfl⟩ rfl failed nofun

/-- A data byte not acknowledged: those after it are not sent. -/
theorem completes_writeBuffer_failed (hw : (Instr.writeBuffer x (sent ++ v :: unsent)).wellFormed = true)
    (hr : r ≠ .ack) :
    Completes (transactionTurns (.writeBuffer x (sent ++ v :: unsent))
      (.start r0 :: (ackAnswers (sent.length + 1) ++ [.tx r]))) s
      (((s.opened x .w r0 .ack).afterSendAll sent).afterSend v r).afterStop [⟨false, []⟩] := by
  have hf := h.live
  have opened := State.opened_inData hf x .w r0 .ack
  have acked := opened.afterSendAll_acked (s.opened_acked x .w r0 .ack) sent
  have data := opened.afterSendAll sent
  have failed : (((s.opened x .w r0 .ack).afterSendAll sent).afterSend v r).acked = false := by
    rw [data.afterSend_acked, decide_eq_false hr]
  have hv : (sla x .w :: (sent ++ v :: unsent))[sent.length + 1]? = some v := by
    rw [List.getElem?_cons_succ]
    simp
  rw [show ackAnswers (sent.length + 1) = .tx .ack :: ackAnswers sent.length from rfl, List.cons_append]
  refine completes_writeBuffer h x r0 hw fun st => ?_
  obtain ⟨st', sends⟩ := plays_writeBuffer_sent (x := x) (r0 := r0) (bytes := sent ++ v :: unsent) hf rfl st
  have close := ends_writeBuffer (q := ⟨true, .writeBuffer x (sent ++ v :: unsent), 3, sent.length + 2, true, [],
    ((s.opened x .w r0 .ack).afterSendAll sent).readSR &&& 0xF8⟩) (data.afterSend v r) ⟨rfl, rfl, rfl⟩ rfl failed nofun
  rw [List.flatMap_append, List.append_assoc]
  exact (close.after fun o => plays_writeBuffer_send data ⟨rfl, rfl, rfl⟩ rfl acked hv).after sends

end

/-- Settles O56: the three runs, with what each leaves in `TRACE`. -/
theorem writeBufferRun : Obligations.WriteBufferRun := by
  intro s x r0 h
  have hf := h.live
  have opened (r1 : TxAnswer) := State.opened_inData hf x .w r0 r1
  refine ⟨fun bytes hw => ?acked, fun bytes r hw hr => ?unaddressed, fun sent v unsent r hw hr => ?failed⟩
  case acked =>
    obtain ⟨t, hrun, htrace, hout, hready, -⟩ :=
      (completes_writeBuffer_acked h x r0 hw).run_transaction h ((opened .ack).afterSendAll bytes)
    rw [(opened .ack).afterSendAll_trace, State.opened_trace] at htrace
    exact ⟨t, hrun, by simpa using htrace, hout, hready⟩
  case unaddressed =>
    obtain ⟨t, hrun, htrace, hout, hready, -⟩ :=
      (completes_writeBuffer_unaddressed h x r0 hw hr).run_transaction h (opened r)
    rw [State.opened_trace] at htrace
    exact ⟨t, hrun, by simpa using htrace, hout, hready⟩
  case failed =>
    have data := (opened .ack).afterSendAll sent
    obtain ⟨-, -, trace, -⟩ := data.afterSend_fields v r
    obtain ⟨t, hrun, htrace, hout, hready, -⟩ :=
      (completes_writeBuffer_failed h x r0 hw hr).run_transaction h (data.afterSend v r)
    rw [trace, (opened .ack).afterSendAll_trace, State.opened_trace] at htrace
    exact ⟨t, hrun, by simpa using htrace, hout, hready⟩

/-- `writeByte` of each byte, all acknowledged. -/
theorem completes_ackedPrimitives (h : b.inData .w) (bytes : List Byte) :
    Completes (ackedPrimitives bytes) b (b.afterSendAll bytes) (bytes.map fun _ => ⟨true, []⟩) := by
  induction bytes generalizing b with
  | nil => exact .nil b
  | cons v bytes ih => exact (completes_writeByte_data h v .ack).append (ih (h.afterSend v .ack))

/-- Settles O59: the same block, byte by byte; the results are true up to the last one sent. -/
theorem writeBufferEqualsPrimitives : Obligations.WriteBufferEqualsPrimitives := by
  intro s x r0 h
  have hf := h.live
  have opened (r1 : TxAnswer) := State.opened_inData hf x .w r0 r1
  refine ⟨fun bytes hw => ?acked, fun bytes r hw hr => ?unaddressed, fun sent v unsent r hw hr => ?failed⟩
  case acked =>
    have primitives := ((completes_opening h x .w r0 .ack).append
      (completes_ackedPrimitives (opened .ack) bytes)).append (completes_sendStop ((opened .ack).afterSendAll bytes))
    obtain ⟨t, u, hrun, hrun', hview, hout, hout'⟩ := (completes_writeBuffer_acked h x r0 hw).run_both primitives h
    exact ⟨t, u, true :: bytes.map fun _ => true, hrun, hrun', hview, by simp, by simpa using hout,
      by simpa [writeResults] using hout'⟩
  case unaddressed =>
    have primitives := (completes_opening h x .w r0 r).append (completes_sendStop (opened r))
    obtain ⟨t, u, hrun, hrun', hview, hout, hout'⟩ :=
      (completes_writeBuffer_unaddressed h x r0 hw hr).run_both primitives h
    exact ⟨t, u, false, hrun, hrun', hview, hout, by simpa [writeResults, hr] using hout'⟩
  case failed =>
    have data := (opened .ack).afterSendAll sent
    have primitives := (((completes_opening h x .w r0 .ack).append
      (completes_ackedPrimitives (opened .ack) sent)).append
      (completes_writeByte_data data v r)).append (completes_sendStop (data.afterSend v r))
    obtain ⟨t, u, hrun, hrun', hview, hout, hout'⟩ := (completes_writeBuffer_failed h x r0 hw hr).run_both primitives h
    exact ⟨t, u, true :: (sent.map (fun _ => true) ++ [false]), hrun, hrun', hview, by simp, by simpa using hout,
      by simpa [writeResults, hr] using hout'⟩

end Sys2Proof.Machine
end

section
/-! PROOFS. The composed transactions, seventh part: `readBuffer` (R164), by induction on the bytes still to be read. -/

namespace Sys2Proof.Machine

open Sys2Proof

variable {s b : State} {q : Seq} {o : List Response} {x : Addr7} {n : Nat} {v : Byte} {r : RxOutcome}

/-! ### Bytes received -/

/-- The block after it received bytes of a read of `n`, each at its index: ACK for every byte but the last. -/
def State.afterReceiveAll (b : State) (n : Nat) (l : List ((RxOutcome × Byte) × Nat)) : State :=
  l.foldl (fun b p => b.afterReceive (decide (p.2 + 1 < n)) p.1.1 p.1.2) b

@[simp] theorem State.afterReceiveAll_nil (b : State) (n : Nat) : b.afterReceiveAll n [] = b := rfl

@[simp] theorem State.afterReceiveAll_cons (b : State) (n : Nat) (p : (RxOutcome × Byte) × Nat) (l) :
    b.afterReceiveAll n (p :: l) = (b.afterReceive (decide (p.2 + 1 < n)) p.1.1 p.1.2).afterReceiveAll n l := rfl

theorem State.inData.afterReceiveAll (h : b.inData .r) (n : Nat) (l : List ((RxOutcome × Byte) × Nat)) :
    (b.afterReceiveAll n l).inData .r := by
  induction l generalizing b with
  | nil => exact h
  | cons p l ih => exact ih (h.afterReceive _ _ _)

theorem State.inData.afterReceiveAll_trace (h : b.inData .r) (n : Nat) (l : List ((RxOutcome × Byte) × Nat)) :
    (b.afterReceiveAll n l).trace = b.trace ++ l.map fun p => .rx p.1.2 (decide (p.2 + 1 < n)) p.1.1 := by
  induction l generalizing b with
  | nil => simp
  | cons p l ih =>
    obtain ⟨-, -, trace, -⟩ := h.afterReceive_fields (decide (p.2 + 1 < n)) p.1.1 p.1.2
    rw [State.afterReceiveAll_cons, ih (h.afterReceive _ _ _), trace, List.append_assoc]
    rfl

/-! ### The turns of `readBuffer` -/

/-- With nothing to read the STOP follows the address byte. -/
theorem ends_readBuffer_empty (h : b.inData .r) (hq : q.isAt (.readBuffer x 0) 3) :
    Ends [.sequencer, .stopCompletion] b q b.afterStop [⟨q.ok && b.acked, []⟩] := by
  refine ends_stop (q' := { q with busy := false, s := b.readSR &&& 0xF8, ok := q.ok && b.acked }) h.live hq rfl
    fun o rest => ?_
  obtain ⟨-, -, empty, -⟩ := readBufferSteps x 0 { b.withSeq q o with schedule := rest } h.live hq.busy hq.cmd
  obtain ⟨k, hk⟩ := h.data
  exact empty k hq.mpc h.ready hk rfl

/-- The first receive. -/
theorem plays_readBuffer_first (h : b.inData .r) (hq : q.isAt (.readBuffer x n) 3) (hidx : q.idx = 0) (hn : 0 < n) :
    Plays (answered (.rx r v)) (b.withSeq q o) ((b.afterReceive (decide (1 < n)) r v).withSeq
      { q with mpc := 4, s := b.readSR &&& 0xF8, ok := q.ok && b.acked } o) :=
  plays_answered h.live h.live hq fun rest => by
    obtain ⟨-, -, -, first, -⟩ := readBufferSteps x n { b.withSeq q o with schedule := rest } h.live hq.busy hq.cmd
    obtain ⟨k, hk⟩ := h.data
    exact first k hq.mpc h.ready hk h.dir hidx hn

/-- The byte received is taken and the next one asked for. -/
theorem plays_readBuffer_next (h : b.inData .r) (hq : q.isAt (.readBuffer x n) 4) (hidx : q.idx + 1 < n) :
    Plays (answered (.rx r v)) (b.withSeq q o) ((b.afterReceive (decide (q.idx + 2 < n)) r v).withSeq
      { q with rx := q.rx ++ [b.dr], idx := q.idx + 1 } o) :=
  plays_answered h.live h.live hq fun rest => by
    obtain ⟨-, -, -, -, -, next⟩ := readBufferSteps x n { b.withSeq q o with schedule := rest } h.live hq.busy hq.cmd
    obtain ⟨k, hk⟩ := h.data
    exact next k hq.mpc h.ready hk h.dir hidx

/-- The last byte is taken, and the STOP sent. -/
theorem ends_readBuffer_last (h : b.inData .r) (hq : q.isAt (.readBuffer x n) 4) (hidx : q.idx + 1 = n) :
    Ends [.sequencer, .stopCompletion] b q b.afterStop [⟨q.ok, q.rx ++ [b.dr]⟩] := by
  refine ends_stop (q' := { q with busy := false, rx := q.rx ++ [b.dr], idx := q.idx + 1 }) h.live hq rfl
    fun o rest => ?_
  obtain ⟨-, -, -, -, last, -⟩ := readBufferSteps x n { b.withSeq q o with schedule := rest } h.live hq.busy hq.cmd
  obtain ⟨k, hk⟩ := h.data
  exact last k hq.mpc h.ready hk hidx

/-- From the byte at index `i`, which `DR` holds, the bytes `l` still to come are read to the last, and the response has
them all. -/
theorem ends_readBuffer_loop (l : List (RxOutcome × Byte)) (h : b.inData .r) (hq : q.isAt (.readBuffer x n) 4)
    (hn : q.idx + 1 + l.length = n) : Ends ((readAnswers l).flatMap answered ++ [.sequencer, .stopCompletion]) b q
      (b.afterReceiveAll n (l.zipIdx (q.idx + 1))).afterStop [⟨q.ok, q.rx ++ b.dr :: l.map Prod.snd⟩] := by
  induction l generalizing b q with
  | nil => exact ends_readBuffer_last h hq hn
  | cons p l ih =>
    obtain ⟨r, v⟩ := p
    have more : q.idx + 1 < n := by simp at hn; omega
    obtain ⟨dr, -⟩ := h.afterReceive_fields (decide (q.idx + 2 < n)) r v
    have rest := ih (q := { q with rx := q.rx ++ [b.dr], idx := q.idx + 1 })
      (h.afterReceive (decide (q.idx + 2 < n)) r v) ⟨hq.busy, hq.cmd, hq.mpc⟩ (by simp at hn ⊢; omega)
    rw [dr, List.append_assoc] at rest
    exact rest.after fun o => plays_readBuffer_next h hq more

/-- What is left of `readBuffer` after the address byte. -/
theorem ends_readBuffer (l : List (RxOutcome × Byte)) (h : b.inData .r) (ok : Bool) (st : Byte) :
    Ends ((readAnswers l).flatMap answered ++ [.sequencer, .stopCompletion]) b
      ⟨true, .readBuffer x l.length, 3, 0, ok, [], st⟩ (b.afterReceiveAll l.length l.zipIdx).afterStop
      [⟨ok && b.acked, l.map Prod.snd⟩] := by
  cases l with
  | nil => exact ends_readBuffer_empty h ⟨rfl, rfl, rfl⟩
  | cons p l =>
    obtain ⟨r, v⟩ := p
    obtain ⟨dr, -⟩ := h.afterReceive_fields (decide (1 < l.length + 1)) r v
    have rest := ends_readBuffer_loop
      (q := ⟨true, .readBuffer x (l.length + 1), 4, 0, ok && b.acked, [], b.readSR &&& 0xF8⟩) l
      (h.afterReceive (decide (1 < l.length + 1)) r v) ⟨rfl, rfl, rfl⟩ (Nat.add_comm _ _)
    rw [dr] at rest
    exact rest.after fun o => plays_readBuffer_first
      (q := ⟨true, .readBuffer x (l.length + 1), 3, 0, ok, [], st⟩) h ⟨rfl, rfl, rfl⟩ rfl l.length.succ_pos

/-- The runs of `readBuffer`, of every length. -/
theorem completes_readBuffer (h : s.ready) (x : Addr7) (r0 : StartAnswer) (r1 : TxAnswer) (l : List (RxOutcome × Byte))
    (hw : (Instr.readBuffer x l.length).wellFormed = true) :
    Completes (transactionTurns (.readBuffer x l.length) (.start r0 :: .tx r1 :: readAnswers l)) s
      ((s.opened x .r r0 r1).afterReceiveAll l.length l.zipIdx).afterStop [⟨decide (r1 = .ack), l.map Prod.snd⟩] := by
  have hf := h.live
  rw [← s.opened_acked x .r r0 r1]
  exact completes_transaction rfl hw rfl rfl (fun _ => rfl) h (fun _ _ => plays_address rfl rfl hf ⟨rfl, rfl, rfl⟩)
    fun _ => ends_readBuffer l (State.opened_inData hf x .r r0 r1) true _

/-- Settles O57: the receives, in order, are what the run records between the address byte and the STOP. -/
theorem readBufferRun : Obligations.ReadBufferRun := by
  intro s x r0 r1 l h hw
  have hf := h.live
  have opened := State.opened_inData hf x .r r0 r1
  obtain ⟨t, hrun, htrace, hout, hready, -⟩ :=
    (completes_readBuffer h x r0 r1 l hw).run_transaction h (opened.afterReceiveAll l.length l.zipIdx)
  rw [opened.afterReceiveAll_trace, State.opened_trace] at htrace
  exact ⟨t, hrun, by simpa [readEvents] using htrace, hout, hready⟩

/-! ### The primitive sequence of `readBuffer` (R106, R167) -/

/-- `readByteAck()` for every byte of `n` but the last, `readByteNoAck()` for the last, each with its index. -/
def indexedReads (n : Nat) (l : List ((RxOutcome × Byte) × Nat)) : List Turn :=
  l.flatMap fun p => commandTurns (if p.2 + 1 < n then .readByteAck else .readByteNoAck) [Answer.rx p.1.1 p.1.2]

theorem readPrimitives_eq (l : List (RxOutcome × Byte)) : readPrimitives l = indexedReads l.length l.zipIdx := rfl

theorem completes_indexedReads (h : b.inData .r) (n : Nat) (l : List ((RxOutcome × Byte) × Nat)) :
    Completes (indexedReads n l) b (b.afterReceiveAll n l) (l.map fun p => ⟨true, [p.1.2]⟩) := by
  induction l generalizing b with
  | nil => exact .nil b
  | cons p l ih =>
    refine Completes.append (completes_readByte ?_ h p.1.1 p.1.2) (ih (h.afterReceive _ _ _))
    by_cases more : p.2 + 1 < n <;> simp [more]

theorem completes_readPrimitives (h : b.inData .r) (l : List (RxOutcome × Byte)) :
    Completes (readPrimitives l) b (b.afterReceiveAll l.length l.zipIdx) (l.map fun p => ⟨true, [p.2]⟩) := by
  have bytes : (l.zipIdx.map fun p => Response.mk true [p.1.2]) = l.map fun p => Response.mk true [p.2] := by
    conv_rhs => rw [← List.zipIdx_map_fst 0 l, List.map_map]
    rfl
  rw [readPrimitives_eq, ← bytes]
  exact completes_indexedReads h l.length l.zipIdx

/-- Settles O60: the same block, byte by byte, for every length and all answers. -/
theorem readBufferEqualsPrimitives : Obligations.ReadBufferEqualsPrimitives := by
  intro s x r0 r1 l h hw
  have hf := h.live
  have opened := State.opened_inData hf x .r r0 r1
  have primitives := ((completes_opening h x .r r0 r1).append (completes_readPrimitives opened l)).append
    (completes_sendStop (opened.afterReceiveAll l.length l.zipIdx))
  obtain ⟨t, u, hrun, hrun', hview, hout, hout'⟩ := (completes_readBuffer h x r0 r1 l hw).run_both primitives h
  exact ⟨t, u, decide (r1 = .ack), hrun, hrun', hview, hout, by simpa using hout'⟩

end Sys2Proof.Machine
end

section
/-! PROOFS. The engine (43_engine.md), first part: what the control-register actions do (R180 to R189, R194, R195), how
each operation completes (R182 to R189), and the status byte of each completion (R190). A first part says once what an
accepted control write makes of its action, and what an answer in the response set makes of the operation pending. -/

namespace Sys2Proof.Machine

open Sys2Proof

variable {s t : State}

/-! ### The control-register actions (R99, R180) -/

/-- Settles O18: an accepted value is one of the six of R99, and what each is known to find when it is accepted is what
it needs. -/
theorem controlWriteDecode : Obligations.ControlWriteDecode := by
  refine fun s v => ⟨⟨fun ⟨t, hw⟩ => ?found, ?accepted⟩, fun r => State.writeCR_error⟩
  case found =>
    have hv := State.writeCR_value hw
    simp only [List.mem_cons, List.not_mem_nil, or_false] at hv
    obtain rfl | rfl | rfl | rfl | rfl | rfl := hv
    · exact .inl rfl
    · exact .inr (.inl rfl)
    · obtain ⟨hfs, -⟩ := State.writeCR_start_ok hw
      exact .inr (.inr (.inl ⟨rfl, hfs⟩))
    · exact .inr (.inr (.inr (.inl ⟨rfl, State.open_of_writeCR (by simp) hw⟩)))
    · exact .inr (.inr (.inr (.inr (.inl ⟨rfl, State.open_of_writeCR (by simp) hw⟩))))
    · obtain ⟨hdir, hfs, -⟩ := State.writeCR_rxa_ok hw
      exact .inr (.inr (.inr (.inr (.inr ⟨rfl, hdir, hfs⟩))))
  case accepted =>
    rintro (rfl | rfl | ⟨rfl, hfs⟩ | ⟨rfl, hfs⟩ | ⟨rfl, hfs | ⟨k, hfs⟩⟩ | ⟨rfl, hdir, k, hfs⟩)
    · exact ⟨_, s.writeCR_enable⟩
    · exact ⟨_, s.writeCR_enableAck⟩
    · exact ⟨_, State.writeCR_start hfs⟩
    · exact ⟨_, State.writeCR_stop hfs⟩
    · exact ⟨_, State.writeCR_txa hfs⟩
    · cases hdir : s.dir with
      | w => exact ⟨_, State.writeCR_txd hfs hdir⟩
      | r => exact ⟨_, State.writeCR_rxn hfs hdir⟩
    · exact ⟨_, State.writeCR_rxa hfs hdir⟩

/-- An action whose value is accepted does what the write does. -/
theorem exec_of_writeCR {i : Instr} {v : Byte} (he : encode i = .control v) (hf : s.flt = none)
    (hw : s.writeCR v = .ok t) : exec i s = .next t := by
  rw [exec_control he, runControl, whileLive_live hf, hw, settle_ok]

/-- Settles O19: both writes are accepted in every state. -/
theorem enableActions : Obligations.EnableActions :=
  have enable {s : State} (hf : s.flt = none) := exec_of_writeCR (i := .enable) rfl hf s.writeCR_enable
  have enableAck {s : State} (hf : s.flt = none) := exec_of_writeCR (i := .enableAck) rfl hf s.writeCR_enableAck
  ⟨fun _ hf => ⟨enable hf, enableAck hf⟩, ⟨_, enable rfl, rfl⟩, ⟨_, enableAck rfl, rfl⟩⟩

/-- Settles O20, action by action: under its condition the write of its value is accepted. -/
theorem triggerActions : Obligations.TriggerActions := fun _ k hf =>
  ⟨fun hfs => exec_of_writeCR rfl hf (State.writeCR_start hfs),
    fun hfs => exec_of_writeCR rfl hf (State.writeCR_stop (.inl hfs)),
    fun hfs => exec_of_writeCR rfl hf (State.writeCR_stop (.inr ⟨k, hfs⟩)),
    fun hfs => exec_of_writeCR rfl hf (State.writeCR_txa hfs),
    fun hfs hdir => exec_of_writeCR rfl hf (State.writeCR_txd hfs hdir),
    fun hfs hdir => exec_of_writeCR rfl hf (State.writeCR_rxn hfs hdir),
    fun hfs hdir => exec_of_writeCR rfl hf (State.writeCR_rxa hfs hdir)⟩

/-! ### The completions (R182 to R189) -/

/-- Settles O15, by the table of R190; a lost arbitration or a bus error has one code for every operation. -/
theorem statusBytes : Obligations.StatusBytes := by
  have arbLost : arbLostCode ++ 0#3 = 0x38#8 := by decide
  have busErr : busError ++ 0#3 = 0x00#8 := by decide
  refine ⟨?startDone, busErr, ?stop, ?addrAck, ?addrNack, ?readAck, ?readNack, fun d => ?addrAbnormal, ?dataAck,
    ?dataNack, arbLost, busErr, ?rxAck, ?rxNack, fun k => ?rxAbnormal⟩
  case addrAbnormal => cases d <;> exact ⟨arbLost, busErr⟩
  case rxAbnormal => cases k <;> exact ⟨arbLost, busErr⟩
  all_goals decide

theorem StartAnswer.abnormal_eq (r : StartAnswer) : r.abnormal = decide (r = .busErr) := by cases r <;> rfl

theorem TxAnswer.abnormal_eq (r : TxAnswer) : r.abnormal = decide (r = .arbLost ∨ r = .busErr) := by cases r <;> rfl

theorem RxOutcome.abnormal_eq (o : RxOutcome) : o.abnormal = decide (o = .arbLost ∨ o = .busErr) := by cases o <;> rfl

theorem State.takeAnswer_start (hp : s.pend = .start) (r : StartAnswer) :
    s.takeAnswer (.start r) = s.completeStart r := by
  simp [State.takeAnswer, hp]

theorem State.takeAnswer_txAddr (hp : s.pend = .txAddr) (r : TxAnswer) : s.takeAnswer (.tx r) = s.completeTxa r := by
  simp [State.takeAnswer, hp]

theorem State.takeAnswer_txData {k : Nat} (hp : s.pend = .txData) (hfs : s.fs = .dataPhase k) (r : TxAnswer) :
    s.takeAnswer (.tx r) = s.completeTxd k r := by
  simp [State.takeAnswer, hp, hfs]

theorem State.takeAnswer_rx {k : Nat} (hp : s.pend = .rx) (hfs : s.fs = .dataPhase k) (o : RxOutcome) (b : Byte) :
    s.takeAnswer (.rx o b) = s.completeRx k o b := by
  simp [State.takeAnswer, hp, hfs]

theorem State.takeStopCompletion_stopped (hfs : s.fs = .stopped) : s.takeStopCompletion = s.completeStop := by
  simp [State.takeStopCompletion, hfs, Framing.isStopped]

/-- A live block takes the turn it is given. -/
theorem step_takeTurn {turn : Turn} {rest : List Turn} (hf : s.flt = none) (hs : s.schedule = turn :: rest) :
    step s = takeTurn turn { s with schedule := rest } := by
  cases turn <;> simp [step, hs, hf]

theorem step_own (hf : s.flt = none) (hs : s.schedule = []) : step s = takeOwnStep s := by
  rw [step, hs, whileLive_live hf]

/-- With no micro-step enabled the block's own step is the engine's. -/
theorem takeOwnStep_disabled (h : s.sequencerEnabled = false) : takeOwnStep s = .next s.takeStopCompletion := by
  simp [takeOwnStep, h]

/-- Settles O22, for both answers. -/
theorem startCompletion : Obligations.StartCompletion := by
  intro s r rest hf hp hs
  rw [step_takeTurn hf hs, takeTurn, State.takeAnswer_start (s := { s with schedule := rest }) hp, ← r.abnormal_eq]
  cases r <;> rfl

/-- Settles O23: `dirOf` is bit 0 of the byte sent. -/
theorem addressByteCompletion : Obligations.AddressByteCompletion := by
  intro s r rest hf hp hs
  rw [step_takeTurn hf hs, takeTurn, State.takeAnswer_txAddr (s := { s with schedule := rest }) hp, ← r.abnormal_eq]
  rfl

/-- Settles O24. -/
theorem dataByteCompletion : Obligations.DataByteCompletion := by
  intro s k r rest hf hp hfs hs
  rw [step_takeTurn hf hs, takeTurn, State.takeAnswer_txData (s := { s with schedule := rest }) hp hfs, ← r.abnormal_eq]
  rfl

/-- Settles O25. -/
theorem receiveCompletion : Obligations.ReceiveCompletion := by
  intro s k o b rest hf hp hfs hs
  rw [step_takeTurn hf hs, takeTurn, State.takeAnswer_rx (s := { s with schedule := rest }) hp hfs, ← o.abnormal_eq]
  rfl

/-- Settles O26, for the engine's turn and for the block's own step. -/
theorem stopCompletion : Obligations.StopCompletion := by
  refine fun s hf hfs => ⟨fun rest hs => ?turn, fun hs hseq => ?own⟩
  case turn =>
    rw [step_takeTurn hf hs, takeTurn, State.takeStopCompletion_stopped (s := { s with schedule := rest }) hfs]
    rfl
  case own =>
    rw [step_own hf hs, takeOwnStep_disabled hseq, State.takeStopCompletion_stopped hfs]
    rfl

end Sys2Proof.Machine
end

section
/-! PROOFS. The engine, second part: the transitions of `FS` (R192). A `CR` write, raw or a command's, makes the rows
without an event; an answer and a STOP completion make the others, each with its event. -/

namespace Sys2Proof.Machine

open Sys2Proof

variable {s t : State}

/-- `FS` stays, or makes one of the transitions of R192; the STOP of its two rows leaves `Started` or `DataPhase`. -/
inductive FramingRow (s t : State) : Prop
  | stay (fs : t.fs = s.fs)
  | start (before : s.fs = .idle) (after : t.fs = .started) (event : t.trace = s.trace ++ [.start])
  | address (before : s.fs = .started) (after : t.fs = .addressPhase) (issued : t.pend = .txAddr)
  | addressed (r : TxAnswer) (before : s.fs = .addressPhase) (after : t.fs = .dataPhase 0)
      (event : t.trace = s.trace ++ [.tx .addr s.dr r])
  | sent (k : Nat) (r : TxAnswer) (before : s.fs = .dataPhase k) (after : t.fs = .dataPhase (k + 1))
      (event : t.trace = s.trace ++ [.tx .data s.dr r])
  | received (k : Nat) (b : Byte) (o : RxOutcome) (before : s.fs = .dataPhase k) (after : t.fs = .dataPhase (k + 1))
      (event : t.trace = s.trace ++ [.rx b s.cr.acken o])
  | stop (before : s.fs = .started ∨ ∃ k, s.fs = .dataPhase k) (after : t.fs = .stopped)
  | stopped (before : s.fs = .stopped) (after : t.fs = .idle) (event : t.trace = s.trace ++ [.stop])

theorem State.writeCR_row {v : Byte} (hw : s.writeCR v = .ok t) : FramingRow s t := by
  obtain ⟨-, ⟨-, rfl⟩ | ⟨-, ⟨-, rfl⟩ | ⟨hfs, rfl⟩ | ⟨hfs, rfl⟩ | ⟨-, -, rfl⟩ | ⟨-, -, rfl⟩⟩⟩ := State.writeCR_cases hw
  case inr.inr.inl => exact .stop hfs rfl
  case inr.inr.inr.inl => exact .address hfs rfl rfl
  all_goals exact .stay rfl

theorem CommandMove.row (hm : CommandMove s t) : FramingRow s t := by
  cases hm with
  | hold | respond | configure => exact .stay rfl
  | stop sq ok payload cmd busy guard framing => exact .stop framing rfl
  | trigger dr acken sta pend fs sq cmd busy guard next which =>
    obtain ⟨-, -, e, -⟩ | ⟨hp, hfs, e⟩ | ⟨-, -, -, e⟩ | ⟨-, -, -, e⟩ := which
    case inr.inl => exact .address hfs e hp
    all_goals exact .stay e

/-- The framing state an operation is pending in is the one its row leaves. -/
theorem EngineInvariant.takeAnswer_row (inv : EngineInvariant s) (a : Answer) : FramingRow s (s.takeAnswer a) := by
  obtain e | ⟨r, hp, -, e⟩ | ⟨r, hp, -, e⟩ | ⟨r, k, -, -, hk, e⟩ | ⟨o, b, k, -, -, hk, e⟩ := s.takeAnswer_cases a
  all_goals rw [e]
  · exact .stay rfl
  · exact .start (inv.start_idle hp) rfl rfl
  · exact .addressed r (inv.txAddr_iff.1 hp) rfl rfl
  · exact .sent k r hk rfl rfl
  · exact .received k b o hk rfl rfl

theorem State.takeStopCompletion_row (s : State) : FramingRow s s.takeStopCompletion := by
  obtain ⟨e, -⟩ | ⟨hfs, e⟩ := s.takeStopCompletion_cases
  all_goals rw [e]
  · exact .stay rfl
  · exact .stopped hfs rfl rfl

theorem Effect.row (h : Effect s t) (inv : EngineInvariant s) : FramingRow s t := by
  cases h with
  | keep | capture => exact .stay rfl
  | answer a => exact inv.takeAnswer_row a
  | stopCompletion => exact s.takeStopCompletion_row
  | write v _ written => exact State.writeCR_row written
  | command _ busy move => exact move.row

/-- Settles O46: each effect of a step makes a row, or none; consuming the turn changes nothing a row reads. -/
theorem framingTransitions : Obligations.FramingTransitions := by
  intro s t inv hstep hr
  cases (step_effect_of_not_reset hstep hr).row inv.consumeTurn with
  | stay fs => exact .inl fs
  | start before after event => exact .inr (.inl ⟨before, after, event⟩)
  | address before after issued => exact .inr (.inr (.inl ⟨before, after, issued⟩))
  | addressed r before after event => exact .inr (.inr (.inr (.inr (.inl ⟨before, after, r, event⟩))))
  | sent k r before after event =>
    exact .inr (.inr (.inr (.inr (.inr (.inl ⟨k, before, after, .inl ⟨r, event⟩⟩)))))
  | received k b o before after event =>
    exact .inr (.inr (.inr (.inr (.inr (.inl ⟨k, before, after, .inr ⟨b, o, event⟩⟩)))))
  | stop before after =>
    obtain before | ⟨k, before⟩ := before
    · exact .inr (.inr (.inr (.inl ⟨before, after⟩)))
    · exact .inr (.inr (.inr (.inr (.inr (.inr (.inl ⟨k, before, after⟩))))))
  | stopped before after event =>
    exact .inr (.inr (.inr (.inr (.inr (.inr (.inr ⟨before, after, event⟩))))))

end Sys2Proof.Machine
end

section
/-! PROOFS. The engine, third part: the engine beside the sequencer (R197 to R199). No micro-step of a command in phase
faults; a command that awaits an answer does nothing until one comes; and a STOP in progress completes before or after
the steps that do not look at it, to the same end. -/

namespace Sys2Proof.Machine

open Sys2Proof

variable {s t u : State} {i : Instr}

/-! ### No micro-step faults (R197) -/

@[simp] theorem State.takeAnswer_flt (s : State) (a : Answer) : (s.takeAnswer a).flt = s.flt := by
  unfold State.takeAnswer; split <;> rfl

@[simp] theorem State.takeStopCompletion_flt (s : State) : s.takeStopCompletion.flt = s.flt := by
  unfold State.takeStopCompletion; split <;> rfl

/-- The faults of checks (3) to (5) of R141. -/
theorem admission_some {r : Fault} (h : admission i s = some r) :
    (∃ c f, r = .configError c f) ∨ r = .notEnabled i ∨ r = .protocolFault i s.fs s.dir := by
  unfold admission at h
  split at h
  next hbad =>
    cases h
    cases i
    case initializeBus c f =>
      simp only [badConfiguration, Option.ite_none_right_eq_some, Option.some.injEq] at hbad
      obtain ⟨-, rfl⟩ := hbad
      exact .inl ⟨c, f, rfl⟩
    all_goals cases hbad
  next =>
    split at h
    · exact .inr (.inl (Option.some.inj h).symm)
    · split at h
      · exact .inr (.inr (Option.some.inj h).symm)
      · cases h

/-- The issue of a byte string records a fault of R141 or none, and none of those is `IllegalControl`. -/
theorem takeIssue_ne_illegalControl {bytes : List Byte} {v : Byte} {fs : Framing} {dir : Dir} (hf : s.flt = none)
    (h : takeIssue bytes s = .next t) : t.flt ≠ some (.illegalControl v fs dir) := by
  unfold takeIssue at h
  split at h
  · cases h; simp
  next free =>
    split at h
    next i decodes =>
      rw [exec_command (decodeCommand_isCommand decodes)] at h
      obtain ⟨-, ⟨busy, -⟩ | ⟨busy, -⟩ | ⟨-, r, refused, rfl⟩ | ⟨-, -, rfl⟩⟩ := runCommand_next h
      · exact absurd busy free
      · exact absurd busy free
      · obtain ⟨c, f, rfl⟩ | rfl | rfl := admission_some refused <;> simp
      · simp [hf]
    next => cases h; simp

namespace SequencerInvariant

theorem withSchedule (inv : SequencerInvariant s) (schedule : List Turn) :
    SequencerInvariant { s with schedule := schedule } :=
  ⟨inv.engine.keep s.flt schedule, inv.phase⟩

variable (inv : SequencerInvariant s) (hf : s.flt = none)
include inv hf

theorem exec_live (hb : s.seq.busy = true) (h : exec s.seq.cmd s = .next t) : t.flt = none := by
  obtain ⟨u, hu, live, -⟩ := stepsInPhase (inv.phase hb) hf hb inv.engine
  cases h.symm.trans hu
  exact live

theorem takeSequencer_live (h : takeSequencer s = .next t) : t.flt = none := by
  unfold takeSequencer at h
  split at h
  next busy => exact inv.exec_live hf busy h
  next => cases h; exact hf

theorem takeOwnStep_live (h : takeOwnStep s = .next t) : t.flt = none := by
  unfold takeOwnStep at h
  split at h
  next enabled =>
    have busy : s.seq.busy = true := by
      rw [State.sequencerEnabled, Bool.and_eq_true] at enabled
      obtain ⟨busy, -⟩ := enabled
      exact busy
    exact inv.exec_live hf busy h
  next => cases h; simpa using hf

end SequencerInvariant

/-- Settles O44: in phase no micro-step faults; of the other turns only a raw control write can record
`IllegalControl`. -/
theorem commandsNeverRaiseIllegalControl : Obligations.CommandsNeverRaiseIllegalControl := by
  intro s t inv hf hstep
  have sequencer (rest) (hs : s.schedule = .sequencer :: rest) : t.flt = none :=
    (inv.withSchedule rest).takeSequencer_live hf ((step_takeTurn hf hs).symm.trans hstep)
  have own (hs : s.schedule = []) : t.flt = none := inv.takeOwnStep_live hf ((step_own hf hs).symm.trans hstep)
  refine ⟨sequencer, own, fun v fs dir ht => ?_⟩
  cases hs : s.schedule with
  | nil => simp [own hs] at ht
  | cons turn rest =>
    have taken : takeTurn turn { s with schedule := rest } = .next t := (step_takeTurn hf hs).symm.trans hstep
    cases turn with
    | control w => exact ⟨w, rest, rfl⟩
    | sequencer => simp [sequencer rest hs] at ht
    | issue bytes => exact absurd ht (takeIssue_ne_illegalControl (s := { s with schedule := rest }) hf taken)
    | answer a => cases taken; simp [hf] at ht
    | stopCompletion => cases taken; simp [hf] at ht
    | reset => cases taken; cases ht

/-! ### A hang (R198) -/

/-- The engine does nothing of its own while an operation is pending. -/
theorem EngineInvariant.takeStopCompletion_pending (inv : EngineInvariant s) (hp : s.pend ≠ .none) :
    s.takeStopCompletion = s := by
  obtain ⟨e, -⟩ | ⟨hfs, -⟩ := s.takeStopCompletion_cases
  · exact e
  · exact absurd (inv.quiet_of_stopped hfs) hp

/-- Turns that each leave the state as it is do so in a run. -/
theorem plays_of_each_stays {turns : List Turn} (h : ∀ turn ∈ turns, Plays [turn] s s) : Plays turns s s := by
  induction turns with
  | nil => exact .nil s
  | cons turn turns ih =>
    obtain ⟨head, tail⟩ := List.forall_mem_cons.1 h
    exact head.append (ih tail)

/-- Settles O38: the await is closed and no STOP is in progress, so neither turn does anything. -/
theorem hangLasts : Obligations.HangLasts := by
  intro s inv ⟨hf, hb, hp, hrdy, hguard⟩
  have sequencer : Plays [.sequencer] s s := plays_turn fun rest => (step_sequencer rest hf hb).trans
    (exec_of_closed_guard (s := { s with schedule := rest }) hf hb (inv.busy_command hb) hguard hrdy)
  have stop : Plays [.stopCompletion] s s := plays_turn fun rest =>
    (step_stopCompletion rest hf).trans (congrArg _ ((inv.keep s.flt rest).takeStopCompletion_pending hp))
  refine ⟨fun turns h => (plays_of_each_stays fun turn ht => ?turn).run, fun hs => ?own, fun bytes rest hs => ?issue⟩
  case turn =>
    obtain rfl | rfl := h turn ht
    · exact sequencer
    · exact stop
  case own =>
    have disabled : s.sequencerEnabled = false := by simp [State.sequencerEnabled, hguard, Guard.isOpen, hrdy]
    rw [step_own hf hs, takeOwnStep_disabled disabled, inv.takeStopCompletion_pending hp]
  case issue =>
    obtain ⟨reentrancy, -⟩ := issueChecksInOrder s bytes rest hf hs
    exact reentrancy hb

/-! ### A STOP completion among other turns (R199) -/

theorem plays_completeStop (hf : s.flt = none) (hfs : s.fs = .stopped) : Plays [.stopCompletion] s s.completeStop :=
  plays_turn fun rest => (step_stopCompletion rest hf).trans
    (congrArg _ (State.takeStopCompletion_stopped (s := { s with schedule := rest }) hfs))

/-- A turn that leads to `u` while the STOP is in progress, and to `u` with the STOP completed once it is. -/
theorem commutes_with_stop {turn : Turn} (before : Plays [turn] s u)
    (after : Plays [turn] s.completeStop u.completeStop) (hf : s.flt = none) (hfs : s.fs = .stopped)
    (hf' : u.flt = none) (hfs' : u.fs = .stopped) :
    ∃ t, runTurns [turn, .stopCompletion] s = .next t ∧ runTurns [.stopCompletion, turn] s = .next t :=
  ⟨_, (before.append (plays_completeStop hf' hfs')).run, ((plays_completeStop hf hfs).append after).run⟩

/-- What is admitted in `Stopped` is admitted in `Idle` (R141). -/
theorem admittedIn_idle_of_stopped {dir : Dir} (h : admittedIn i .stopped dir = true) :
    admittedIn i .idle dir = true := by
  cases i
  case sendStop | writeByte | readByteAck | readByteNoAck => cases h
  all_goals rfl

theorem admission_completeStop (hfs : s.fs = .stopped) (h : admission i s = none) :
    admission i s.completeStop = none := by
  obtain ⟨-, hadm⟩ := admitted_of_admission h
  rw [hfs] at hadm
  refine admission_eq_none (fun c f hi hdiv => ?config) fun htouch => ⟨?enabled, admittedIn_idle_of_stopped hadm⟩
  case config =>
    subst hi
    cases (admission_configError hdiv).symm.trans h
  case enabled =>
    by_contra hen
    have hen : s.cr.en = false := Bool.eq_false_iff.2 hen
    cases (admission_notEnabled htouch hen).symm.trans h

/-- What the one micro-step of a configuration command leaves (R130, R147). -/
def State.configured (s : State) (brr oar : Byte) (ack : Bool) : State :=
  { s with
    brr := brr, oar := oar, cr := ⟨s.cr.rdy, ack, false, true⟩, seq := { s.seq with busy := false }
    out := s.out ++ [⟨true, []⟩] }

section
variable (hf : s.flt = none) (hb : s.seq.busy = true) (hn : s.seq.mpc = 1)
include hf hb hn

theorem plays_initialize {c f d : Nat} (hd : divisor c f = some d) (hc : s.seq.cmd = .initializeBus c f) :
    Plays [.sequencer] s (s.configured (BitVec.ofNat 8 d) s.oar false) := plays_turn fun rest => by
  rw [step_sequencer rest hf hb, hc]
  exact initializeSteps c f d { s with schedule := rest } hf hd hb hc hn

theorem plays_registerOwnAddress {a : Addr7} (hc : s.seq.cmd = .registerOwnAddress a) :
    Plays [.sequencer] s (s.configured s.brr (ownAddressByte a) true) := plays_turn fun rest => by
  obtain ⟨steps, -⟩ := registerOwnAddressSteps
  rw [step_sequencer rest hf hb, hc]
  exact steps a { s with schedule := rest } hf hb hc hn

end

/-- Settles O53: each step does the same with the STOP in progress as with the STOP completed, and neither looks at what
the other writes. -/
theorem stopCompletionCommutes : Obligations.StopCompletionCommutes := by
  refine ⟨fun s bytes i hf hb hfs hd ha => ?issue, fun s c f a hf hb hn hfs which => ?configure⟩
  case issue =>
    have captures {s : State} (hf : s.flt = none) (hb : s.seq.busy = false) (ha : admission i s = none) :
        Plays [.issue bytes] s (s.capture i) := plays_turn fun rest =>
      (step_issue bytes rest i hf hb hd).trans (exec_admitted (decodeCommand_isCommand hd) hf hb ha)
    exact commutes_with_stop (captures hf hb ha)
      (captures (s := s.completeStop) hf hb (admission_completeStop hfs ha)) hf hfs hf hfs
  case configure =>
    obtain ⟨hc, defined⟩ | hc := which
    · obtain ⟨d, hd⟩ := Option.ne_none_iff_exists'.1 defined
      exact commutes_with_stop (plays_initialize hf hb hn hd hc)
        (plays_initialize (s := s.completeStop) hf hb hn hd hc) hf hfs hf hfs
    · exact commutes_with_stop (plays_registerOwnAddress hf hb hn hc)
        (plays_registerOwnAddress (s := s.completeStop) hf hb hn hc) hf hfs hf hfs

end Sys2Proof.Machine
end

section
/-! PROOFS. The exceptions (60_exceptions.md): what raising a fault changes, and what a faulted block does (R212, R240).
Of the effects a step can have only `Effect.keep` writes `FLT`, and it writes nothing else. -/

namespace Sys2Proof.Machine

open Sys2Proof

variable {s t : State} {r : Fault}

/-! ### What writes `FLT` -/

theorem State.writeCR_flt {v : Byte} (h : s.writeCR v = .ok t) : t.flt = s.flt := by rw [(State.writeCR_frame h).1]

theorem CommandMove.flt_eq (h : CommandMove s t) : t.flt = s.flt := by cases h <;> rfl

/-- An effect raises a fault and does nothing else, or leaves `FLT` as it is. -/
theorem Effect.flt_cases (h : Effect s t) : (∃ flt, t = { s with flt := flt }) ∨ t.flt = s.flt := by
  cases h with
  | keep flt => exact .inl ⟨flt, rfl⟩
  | answer a => exact .inr (s.takeAnswer_flt a)
  | stopCompletion => exact .inr s.takeStopCompletion_flt
  | capture i => exact .inr rfl
  | write v _ written => exact .inr (State.writeCR_flt written)
  | command _ busy move => exact .inr move.flt_eq

theorem Effect.eq_raise (h : Effect s t) (live : s.flt = none) (raised : t.flt = some r) : t = s.raise r := by
  obtain ⟨flt, rfl⟩ | kept := h.flt_cases
  · cases raised; rfl
  · cases (kept.symm.trans raised).symm.trans live

/-- A step that raises a fault consumes its turn and records the fault. -/
theorem step_raises (live : s.flt = none) (hstep : step s = .next t) (raised : t.flt = some r) :
    t = s.consumeTurn.raise r := by
  obtain ⟨rest, -, rfl⟩ | effect := step_effect hstep
  · cases raised
  · exact effect.eq_raise live raised

/-! ### What a faulted block does -/

theorem step_faulted (hf : s.flt = some r) (hr : s.schedule.head? ≠ some .reset) : step s = .fault r := by
  unfold step
  split
  next => exact whileLive_faulted hf _
  next rest hs => simp [hs] at hr
  next turn rest _ hs => exact whileLive_faulted hf _

/-- A reset turn is taken whether the block is faulted or not (R240). -/
theorem step_reset {rest : List Turn} (hs : s.schedule = .reset :: rest) :
    step s = .next { State.reset with schedule := rest } := by
  rw [step, hs]; rfl

theorem State.final.live (h : s.final) : s.flt = none := by
  obtain ⟨-, live, -⟩ := h
  exact live

/-- Settles O10: the first clause from the effects of a step, the others from the order in which `step` looks at the
head turn and at `FLT`. -/
theorem faultChangesOnlyFlt : Obligations.FaultChangesOnlyFlt :=
  ⟨fun _ _ _ => step_raises, fun _ _ => step_faulted, fun _ _ => step_reset, fun _ faulted final => faulted final.live⟩

end Sys2Proof.Machine
end

section
/-! PROOFS. Reset and hazards (70_reset_and_hazards.md): the bus frequency a divisor stands for (R254), and how a run
can end (R252). A command in phase that can make no step of its own awaits the bus: the opening step holds only while
a STOP is in progress, and that STOP then completes. -/

namespace Sys2Proof.Machine

open Sys2Proof

variable {s : State}

/-! ### The programmed bus frequency (R254) -/

/-- Settles O12: twice the truncated half of `q - 16` is no more than `q - 16`, and `q` is itself truncated. -/
theorem programmedFrequencyNotBelowRequested : Obligations.ProgrammedFrequencyNotBelowRequested := by
  intro c f d defined
  obtain ⟨-, large, half, -⟩ := (divisorExact c f d).1 defined
  calc f * 1000 * (16 + 2 * d * Config.prescaler)
      ≤ f * 1000 * (c / (f * 1000)) := Nat.mul_le_mul_left _ (by rw [Config.prescaler]; omega)
    _ ≤ c := Nat.mul_div_le c (f * 1000)

/-! ### Which guard a phase stands at -/

theorem State.opening.awaited (h : s.opening) : s.awaited :=
  h.imp (fun pending => by simp [pending]) fun ⟨_, ready, _⟩ => ready

theorem State.addressing.awaited {d : Dir} (h : s.addressing d) : s.awaited :=
  h.imp (fun ⟨pending, _⟩ => by simp [pending]) fun ⟨_, ready, _⟩ => ready

theorem State.sending.awaited (h : s.sending) : s.awaited :=
  h.imp (fun pending => by simp [pending]) fun ⟨_, ready, _⟩ => ready

theorem State.receiving.awaited (h : s.receiving) : s.awaited :=
  h.imp (fun pending => by simp [pending]) fun ⟨_, ready, _⟩ => ready

/-- Where the block is when a command in phase comes to a guard. -/
def Guard.reachedIn (g : Guard) (s : State) : Prop :=
  match g with
  | .always => True
  | .awaitRdy => s.awaited
  | .holdIdle => s.beforeOpening

/-- Row by row of `State.inPhase`: every micro-step a command comes to has its guard. -/
theorem State.inPhase.guard (h : s.inPhase) : ∃ g, s.currentGuard = some g ∧ g.reachedIn s := by
  unfold State.inPhase at h
  unfold State.currentGuard
  generalize s.seq.cmd = cmd, s.seq.mpc = mpc at h ⊢
  split at h
  -- the first steps without a guard: configuration, and the primitives in an open transaction
  case h_1 | h_2 | h_5 | h_6 | h_8 | h_10 => exact ⟨.always, rfl, trivial⟩
  -- the opening steps, that of `readBuffer` with its index
  case h_3 | h_12 | h_16 | h_20 => exact ⟨.holdIdle, rfl, h⟩
  case h_23 =>
    obtain ⟨before, -⟩ := h
    exact ⟨.holdIdle, rfl, before⟩
  -- the awaits of the primitives
  case h_7 | h_9 | h_11 => exact ⟨.awaitRdy, rfl, h⟩
  -- the awaits of a START, an address byte, a data byte, the loops with their index
  case h_4 | h_13 | h_14 | h_15 | h_17 | h_18 | h_19 | h_21 => exact ⟨.awaitRdy, rfl, h.awaited⟩
  case h_22 =>
    obtain ⟨addressing | sending, -⟩ := h
    · exact ⟨.awaitRdy, rfl, addressing.awaited⟩
    · exact ⟨.awaitRdy, rfl, sending.awaited⟩
  case h_24 | h_25 | h_26 =>
    obtain ⟨phase, -⟩ := h
    exact ⟨.awaitRdy, rfl, phase.awaited⟩
  -- a step no command comes to
  case h_27 => exact h.elim

/-! ### How a run can end (R252) -/

theorem State.quiescent.of_live (h : s.quiescent) (hf : s.flt = none) :
    s.schedule = [] ∧ s.sequencerEnabled = false ∧ s.fs ≠ .stopped := by
  obtain ⟨hs, faulted | disabled⟩ := h
  · exact absurd hf faulted
  · exact ⟨hs, disabled⟩

/-- A quiescent block that is not faulted steps to itself (log 4). -/
theorem State.quiescent.stutters (h : s.quiescent) (hf : s.flt = none) : step s = .next s := by
  obtain ⟨hs, disabled, hfs⟩ := h.of_live hf
  obtain ⟨e, -⟩ | ⟨stopped, -⟩ := s.takeStopCompletion_cases
  · rw [step_own hf hs, takeOwnStep_disabled disabled, e]
  · exact absurd stopped hfs

/-- An executing command without an enabled micro-step awaits the bus, unless a STOP in progress holds it. -/
theorem SequencerInvariant.awaitingBus (inv : SequencerInvariant s) (hf : s.flt = none) (hb : s.seq.busy = true)
    (disabled : s.sequencerEnabled = false) (hfs : s.fs ≠ .stopped) : s.awaitingBus := by
  obtain ⟨g, guard, reached⟩ := (inv.phase hb).guard
  have closed : g.isOpen s = false := by simpa [State.sequencerEnabled, hb, guard] using disabled
  cases g with
  | always => cases closed
  | awaitRdy =>
    have pending : s.pend ≠ .none := reached.resolve_right (ne_true_of_eq_false closed)
    exact ⟨hf, hb, pending, closed, guard⟩
  | holdIdle =>
    obtain ⟨-, idle | stopped⟩ := reached
    · simp [Guard.isOpen, idle, Framing.isIdle] at closed
    · exact absurd stopped hfs

/-- Without an executing command a quiescent live block with nothing pending is between transactions or in one. -/
theorem State.quiescent.final_or_leftOpen (h : s.quiescent) (hf : s.flt = none) (hb : s.seq.busy = false)
    (hp : s.pend = .none) (hfs : s.fs ≠ .addressPhase) : s.final ∨ s.leftOpen := by
  obtain ⟨-, -, notStopped⟩ := h.of_live hf
  cases framing : s.fs with
  | idle => exact .inl ⟨h, hf, hb, hp, framing⟩
  | started => exact .inr ⟨h, hf, hb, .inl framing⟩
  | addressPhase => exact absurd framing hfs
  | dataPhase k => exact .inr ⟨h, hf, hb, .inr ⟨k, framing⟩⟩
  | stopped => exact absurd framing notStopped

theorem State.hung.not_final (h : s.hung) : ¬ s.final := by
  obtain ⟨-, -, busy, -⟩ := h
  rintro ⟨-, -, free, -⟩
  simp [busy] at free

theorem State.hung.not_leftOpen (h : s.hung) : ¬ s.leftOpen := by
  obtain ⟨-, -, busy, -⟩ := h
  rintro ⟨-, -, free, -⟩
  simp [busy] at free

theorem State.final.not_leftOpen (h : s.final) : ¬ s.leftOpen := by
  obtain ⟨-, -, -, -, idle⟩ := h
  rintro ⟨-, -, -, started | ⟨k, data⟩⟩
  · simp [idle] at started
  · simp [idle] at data

/-- Settles O54: an executing command awaits the bus, and without one `FS` tells the kind. -/
theorem quiescentStatesClassified : Obligations.QuiescentStatesClassified := by
  refine ⟨fun s cmd seq quiet => ?kinds, fun s hf hfs quiet => ?stopped⟩
  case kinds =>
    by_cases hf : s.flt = none
    case neg => exact .inl hf
    refine .inr ⟨quiet.stutters hf, ?_⟩
    cases hb : s.seq.busy with
    | true =>
      obtain ⟨-, disabled, hfs⟩ := quiet.of_live hf
      have awaits : s.awaitingBus := seq.awaitingBus hf hb disabled hfs
      have ⟨_, _, _, hrdy, hguard⟩ := awaits
      have hung : s.hung := ⟨quiet, hf, hb, .inl ⟨hguard, hrdy⟩⟩
      exact .inr (.inl ⟨hung, awaits, hung.not_final, hung.not_leftOpen⟩)
    | false =>
      have hp : s.pend = .none := by
        by_contra pending
        simp [cmd.pending_busy pending] at hb
      obtain final | leftOpen := quiet.final_or_leftOpen hf hb hp (cmd.engine.not_addressPhase hp)
      · exact .inl ⟨final, (·.not_final final), final.not_leftOpen⟩
      · exact .inr (.inr ⟨leftOpen, (·.not_leftOpen leftOpen), (·.not_leftOpen leftOpen)⟩)
  case stopped =>
    obtain ⟨-, -, notStopped⟩ := quiet.of_live hf
    exact notStopped hfs

end Sys2Proof.Machine
end

section
/-! PROOFS. Which turn runs which instruction (30_encoding.md section 2, 43_engine.md R199): a presented word runs what it
decodes to, and the sequencer, on its turn or on its own, runs the command executing. -/

namespace Sys2Proof.Machine

open Sys2Proof

variable {s : State} {i : Instr}

/-! ### What a turn runs -/

theorem takeIssue_decoded {bytes : List Byte} (hb : s.seq.busy = false) (hd : decodeCommand bytes = .ok i) :
    takeIssue bytes s = exec i s := by
  simp [takeIssue, hb, hd]

theorem takeControl_decoded {v : Byte} (hd : decodeControl v s.fs s.dir = .ok i) : takeControl v s = exec i s := by
  simp [takeControl, hd]

theorem takeSequencer_busy (hb : s.seq.busy = true) : takeSequencer s = exec s.seq.cmd s := by
  simp [takeSequencer, hb]

theorem takeOwnStep_enabled (h : s.sequencerEnabled = true) : takeOwnStep s = exec s.seq.cmd s := by
  simp [takeOwnStep, h]

/-- A presented word runs what it decodes to: at the control level always, at the command level when none executes. -/
theorem step_presentTurn {word : InstrWord} {rest : List Turn} (hf : s.flt = none)
    (hs : s.schedule = presentTurn word :: rest) (free : s.seq.busy = false ∨ ∃ v, word = .control v)
    (hd : decode word s.fs s.dir = .ok i) : step s = exec i { s with schedule := rest } := by
  rw [step_takeTurn hf hs]
  cases word with
  | control v => exact takeControl_decoded (s := { s with schedule := rest }) hd
  | command bytes =>
    have hb : s.seq.busy = false := free.resolve_right nofun
    exact takeIssue_decoded (s := { s with schedule := rest }) hb hd

/-- Settles O6: a command string, a control value and a table word are all presented words; the sequencer's turn and its
own enabled step are the executing command's. -/
theorem stepRunsDecodedInstruction : Obligations.StepRunsDecodedInstruction := by
  refine ⟨fun s bytes rest i hf hb hs hd => ?issue, fun s v rest i hf hs hd => ?control,
    fun s rest hf hb hs => ?sequencer, fun s hf hs enabled => ?own, fun s nbits w i hf free hd => ?tableWord⟩
  case issue => exact step_presentTurn (word := .command bytes) hf hs (.inl hb) hd
  case control => exact step_presentTurn (word := .control v) hf hs (.inr ⟨v, rfl⟩) hd
  case sequencer => exact (step_takeTurn hf hs).trans (takeSequencer_busy (s := { s with schedule := rest }) hb)
  case own => exact (step_own hf hs).trans (takeOwnStep_enabled enabled)
  case tableWord => exact step_presentTurn (s := s.withFetchWord nbits w) hf rfl free hd

end Sys2Proof.Machine
end
